-- ==== Sys2Proof/Word.lean ====
section
/-! DEFINITION. The byte, and nothing else: every datum of the block is an unsigned byte (00_scope.md R8). -/

namespace Sys2Proof

/-- An unsigned integer 0 to 255 (R8); addition wraps modulo 256 (41_checksum.md R107). -/
abbrev Byte := BitVec 8

end Sys2Proof
end

