-- ==== Sys2Proof/Syntax.lean ====
section
/-! DEFINITION. The syntax of everything that is presented to the block: one constructor per row of
spec/opcode_table.json, and the coded units that carry them (30_encoding.md R60). -/

namespace Sys2Proof

/-- The three waits that the rules label with a duration (00_scope.md R6, R7). The model has no time
(70_reset_and_hazards.md R215): a duration is a label and nothing else. -/
inductive Duration where
  /-- T_TIMEOUT, 30 s. -/
  | tTimeout
  /-- T_SETTLE, about 200 ms. -/
  | tSettle
  /-- T_BREAK, about 1.0 s. -/
  | tBreak
deriving DecidableEq, Repr

/-- The rows of spec/opcode_table.json: six host commands (R62), eight link primitives (R64), the ACK
symbol (R67) and the quirk pattern (R68). -/
inductive Instr where
  /-- OPEN, CMD8 0x01. -/
  | cmdOpen
  /-- CLOSE, CMD8 0x02. -/
  | cmdClose
  /-- VERIFY, CMD8 0x10. -/
  | cmdVerify
  /-- CORRECT, CMD8 0x11. -/
  | cmdCorrect
  /-- RECV, CMD8 0x20. -/
  | cmdRecv
  /-- SEND, CMD8 0x21. -/
  | cmdSend
  /-- LK.OPEN, LKREQ4 0x1. -/
  | lkOpen
  /-- LK.CLOSE, LKREQ4 0x2. -/
  | lkClose
  /-- LK.READ(n), LKREQ4 0x3. -/
  | lkRead (n : Nat)
  /-- LK.WRITE(s), LKREQ4 0x4. -/
  | lkWrite (s : List Byte)
  /-- LK.BREAK(d), LKREQ4 0x5. -/
  | lkBreak (d : Duration)
  /-- LK.WAITING, LKREQ4 0x6. -/
  | lkWaiting
  /-- LK.FLUSHIN, LKREQ4 0x7. -/
  | lkFlushin
  /-- LK.FLUSHOUT, LKREQ4 0x8. -/
  | lkFlushout
  /-- ACK, the wire symbol 0x06. -/
  | ack
  /-- QUIRK, the wire pattern 0xFF 0xFF 0x06. -/
  | quirk
deriving DecidableEq, Repr

/-- The operand that accompanies a link request (R64): none, a size, a byte string or a duration. -/
inductive LkOperand where
  | none
  | size (n : Nat)
  | data (s : List Byte)
  | duration (d : Duration)
deriving DecidableEq, Repr

/-- One coded unit as it is presented at its port (R60): a command byte at CMD, a link request at the
SerialLink, or characters of the wire taken as a protocol symbol. -/
inductive CodeUnit where
  /-- Format CMD8 (R61). -/
  | cmd8 (c : Byte)
  /-- Format LKREQ4 (R64). -/
  | lkReq (code : BitVec 4) (operand : LkOperand)
  /-- Format CHAR, one or more characters read as a symbol (R67, R68). -/
  | symbol (bytes : List Byte)
deriving DecidableEq, Repr

/-- The three ports of R60's coded formats. -/
inductive Port where
  | cmd
  | link
  | wire
deriving DecidableEq, Repr

/-- The port an instruction belongs to: the "format" column of spec/opcode_table.json. -/
def Instr.port : Instr → Port
  | .cmdOpen | .cmdClose | .cmdVerify | .cmdCorrect | .cmdRecv | .cmdSend => .cmd
  | .lkOpen | .lkClose | .lkRead _ | .lkWrite _ | .lkBreak _ => .link
  | .lkWaiting | .lkFlushin | .lkFlushout => .link
  | .ack | .quirk => .wire

/-- The port at which a unit is presented. -/
def CodeUnit.port : CodeUnit → Port
  | .cmd8 _ => .cmd
  | .lkReq _ _ => .link
  | .symbol _ => .wire

end Sys2Proof
end

