-- ==== Sys2Proof/Config.lean ====
section
/-! DEFINITION. What is fixed for the machine: the constants of 00_scope.md R6, the parameters of R7, and the
free values, which no rule fixes. -/

namespace Sys2Proof

/-- A segment of the image, called a block on the send side (00_scope.md R6, 43_send.md R144). -/
inductive Block where
  | one
  | two
  | three
deriving DecidableEq, Repr

/-- A checksum region (41_checksum.md R101). -/
inductive Region where
  | one
  | two
  | three
deriving DecidableEq, Repr

/-- What the device side answers to one link primitive, apart from the bytes it supplies. -/
inductive Answer where
  /-- The primitive returns; for LK.OPEN, "available" (40_link.md R81). -/
  | ok
  /-- The link fails (R91); for LK.OPEN, "not available" (R81). -/
  | fail
  /-- The primitive has not returned yet (93_implementation_defined.md U6). -/
  | stall
deriving DecidableEq, Repr, Inhabited

/-- One move of the device side (40_link.md R90): the bytes it appends to RXQ before or during a link
primitive or a Delay, and its answer to the primitive. -/
structure DevMove where
  arrive : List Byte
  answer : Answer
deriving DecidableEq, Repr, Inhabited

namespace Config

/-- IMG_LEN (R6). -/
def imgLen : Nat := 16211
/-- ACK (R6, 30_encoding.md R67). -/
def ackByte : Byte := 0x06#8
/-- QUIRK (R6, 30_encoding.md R68). -/
def quirkEcho : List Byte := [0xFF#8, 0xFF#8, 0x06#8]
/-- BAUD (R6); no rule of the model depends on it. -/
def baud : Nat := 19200
/-- STOPBITS (R6). -/
def stopBits : Nat := 2

/-- The open parameters of 00_scope.md R7 that a rule reads. T_SETTLE and T_BREAK are labels (log 21), the
frame fields are read by no rule (log 27). -/
structure Params where
  /-- ACKREAD_MIN, 0 or 1 (D9). -/
  ackReadMin : Fin 2
  /-- LINKFAIL (D11). -/
  linkFail : Bool
  /-- W_MAX; `none` is unbounded (D23). -/
  wMax : Option Nat
deriving DecidableEq, Repr

/-- The defaults of R7's table. -/
def Params.default : Params := { ackReadMin := 1, linkFail := true, wMax := none }

/-- FREE VALUE (log 4): the byte at an offset of IMG that nothing has written since the reset numbered by the
first argument (10_state.md R31 "any bytes; a model must not assume zero"; U5). -/
opaque imgUnspecified : Nat → Nat → Byte

/-- FREE VALUE (log 3): the device side's move at a link step for which no answer is queued, by draw number
(U1, U2, U3, U6). -/
opaque deviceMove : Nat → DevMove

/-- FREE VALUE (log 6): the contents of RXQ after LK.CLOSE, by draw number (40_link.md R82
"RXQ <- undefined"). -/
opaque undefinedRxq : Nat → List Byte

end Config

end Sys2Proof
end

