-- ==== Sys2Proof/WellFormed.lean ====
section
/-! DEFINITION. Which instructions the spec's formats allow: the operand ranges of 30_encoding.md R64. -/

namespace Sys2Proof

/-- The operand of a link request is in the range that R64 gives it: n of LK.READ is at most 16193, the byte
string of LK.WRITE is "always one byte in this block", the duration of LK.BREAK is "always T_BREAK in this
block". Commands and symbols have no operand. -/
def Instr.wf : Instr → Bool
  | .lkRead n => decide (n ≤ 16193)
  | .lkWrite s => s.length == 1
  | .lkBreak d => d == .tBreak
  | .cmdOpen | .cmdClose | .cmdVerify | .cmdCorrect | .cmdRecv | .cmdSend => true
  | .lkOpen | .lkClose | .lkWaiting | .lkFlushin | .lkFlushout => true
  | .ack | .quirk => true

end Sys2Proof
end

