-- ==== Sys2Proof/Decode.lean ====
section
/-! DEFINITION. Decoding of the three code spaces of 30_encoding.md, total, rejecting by name, and the encoder
written from the same tables. -/

namespace Sys2Proof

/-- Why a unit is no instruction. -/
inductive DecodeError where
  /-- A CMD8 value outside R62 (R63): the machine raises IllegalCommand. -/
  | illegalCommand
  /-- LKREQ4 code 0x0: no request (R64). -/
  | noRequest
  /-- LKREQ4 codes 0x9 to 0xF (R64): "never issued by the engine". -/
  | reservedRequest
  /-- A request whose operand is not of the kind R64 gives that code. -/
  | operandKind
  /-- Characters that are no protocol symbol (R67: there is none but ACK; R68). -/
  | unknownSymbol
deriving DecidableEq, Repr

/-- CMD8: equality of the whole byte (R61, R62). -/
def decodeCmd8 (c : Byte) : Except DecodeError Instr :=
  if c = 0x01#8 then .ok .cmdOpen
  else if c = 0x02#8 then .ok .cmdClose
  else if c = 0x10#8 then .ok .cmdVerify
  else if c = 0x11#8 then .ok .cmdCorrect
  else if c = 0x20#8 then .ok .cmdRecv
  else if c = 0x21#8 then .ok .cmdSend
  else .error .illegalCommand

/-- A request without operand. -/
def bareRequest (i : Instr) : LkOperand → Except DecodeError Instr
  | .none => .ok i
  | .size _ | .data _ | .duration _ => .error .operandKind

/-- LKREQ4: code and operand (R64). -/
def decodeLkReq (code : BitVec 4) (operand : LkOperand) : Except DecodeError Instr :=
  if code = 0x0#4 then .error .noRequest
  else if code = 0x1#4 then bareRequest .lkOpen operand
  else if code = 0x2#4 then bareRequest .lkClose operand
  else if code = 0x3#4 then
    match operand with
    | .size n => .ok (.lkRead n)
    | .none | .data _ | .duration _ => .error .operandKind
  else if code = 0x4#4 then
    match operand with
    | .data s => .ok (.lkWrite s)
    | .none | .size _ | .duration _ => .error .operandKind
  else if code = 0x5#4 then
    match operand with
    | .duration d => .ok (.lkBreak d)
    | .none | .size _ | .data _ => .error .operandKind
  else if code = 0x6#4 then bareRequest .lkWaiting operand
  else if code = 0x7#4 then bareRequest .lkFlushin operand
  else if code = 0x8#4 then bareRequest .lkFlushout operand
  else .error .reservedRequest

/-- Symbols of the wire: the byte 0x06 alone is ACK (R67), the string FF FF 06 "matched as a whole byte
string" is QUIRK (R68). -/
def decodeSymbol (bytes : List Byte) : Except DecodeError Instr :=
  if bytes = [Config.ackByte] then .ok .ack
  else if bytes = Config.quirkEcho then .ok .quirk
  else .error .unknownSymbol

/-- The decoder: each port has its own code space (R60). -/
def decode : CodeUnit → Except DecodeError Instr
  | .cmd8 c => decodeCmd8 c
  | .lkReq code operand => decodeLkReq code operand
  | .symbol bytes => decodeSymbol bytes

/-- The encoder, from the tables of R62, R64, R67 and R68. -/
def encode : Instr → CodeUnit
  | .cmdOpen => .cmd8 0x01#8
  | .cmdClose => .cmd8 0x02#8
  | .cmdVerify => .cmd8 0x10#8
  | .cmdCorrect => .cmd8 0x11#8
  | .cmdRecv => .cmd8 0x20#8
  | .cmdSend => .cmd8 0x21#8
  | .lkOpen => .lkReq 0x1#4 .none
  | .lkClose => .lkReq 0x2#4 .none
  | .lkRead n => .lkReq 0x3#4 (.size n)
  | .lkWrite s => .lkReq 0x4#4 (.data s)
  | .lkBreak d => .lkReq 0x5#4 (.duration d)
  | .lkWaiting => .lkReq 0x6#4 .none
  | .lkFlushin => .lkReq 0x7#4 .none
  | .lkFlushout => .lkReq 0x8#4 .none
  | .ack => .symbol [Config.ackByte]
  | .quirk => .symbol Config.quirkEcho

/-- The operand words of a table row laid out as zeros: a size of 0, the one byte 0x00, and for LK.BREAK the
one duration there is. -/
def zeroOperand (code : BitVec 4) : LkOperand :=
  if code = 0x3#4 then .size 0
  else if code = 0x4#4 then .data [0x00#8]
  else if code = 0x5#4 then .duration .tBreak
  else .none

/-- The units that `nbits` bits with the value `w` can stand for, the row of that very width first (log 11).
The table's code spaces overlap (OPEN and LK.OPEN are both 1): eight bits are a command byte or the ACK
character before they are a 4-bit request in a byte. The 24 bits of QUIRK are three characters, the first of
the wire being the most significant of the table's number 0xFFFF06 (log 12). -/
def unitsOfTable (nbits w : Nat) : List CodeUnit :=
  if 2 ^ nbits ≤ w then []
  else if nbits = 4 then [.lkReq (BitVec.ofNat 4 w) (zeroOperand (BitVec.ofNat 4 w))]
  else if nbits = 8 then
    [.cmd8 (BitVec.ofNat 8 w), .symbol [BitVec.ofNat 8 w]] ++
      (if w < 16 then [.lkReq (BitVec.ofNat 4 w) (zeroOperand (BitVec.ofNat 4 w))] else [])
  else if nbits = 24 then
    [.symbol [BitVec.ofNat 8 (w / 65536), BitVec.ofNat 8 (w / 256), BitVec.ofNat 8 w]]
  else []

/-- The first unit of a list that decodes, with its instruction. -/
def firstDecoded : List CodeUnit → Option (CodeUnit × Instr)
  | [] => none
  | u :: rest =>
    match decode u with
    | .ok i => some (u, i)
    | .error _ => firstDecoded rest

/-- The instruction the decoder reads from an instruction whose bits are `w`. -/
def decodeTableWord (nbits w : Nat) : Option Instr :=
  (firstDecoded (unitsOfTable nbits w)).map (·.2)

end Sys2Proof
end

