-- ==== Sys2Proof/Machine/State.lean ====
section
/-! DEFINITION. The architectural state of 10_state.md R10 as plain data, its reset value (R31), and the reasons
for which a step may stop. -/

namespace Sys2Proof.Machine

/-- FSM, the architected transfer state (10_state.md R15); code 7 is unrepresentable (U11). -/
inductive Fsm where
  | idle
  | flushed
  | segment1
  | segment2
  | segment3
  | complete
  | aborted
deriving DecidableEq, Repr

/-- DIR, the direction of the running or last transfer (10_state.md R16). -/
inductive Dir where
  | none
  | rx
  | tx
deriving DecidableEq, Repr

/-- The error codes of 60_exceptions.md R171. -/
inductive ErrCode where
  | none
  | linkUnavailable
  | lengthMismatch
  | echoMismatchFatal
  | checksumInvalid
  | illegalCommand
deriving DecidableEq, Repr

/-- The place in the pseudocode (10_state.md R14): which link primitive, Delay or checksum pass is the next
step. The rest of SEQ is in FSM, BLK and IDX. -/
inductive SeqPos where
  /-- No command runs. -/
  | idle
  /-- OPEN: LK.OPEN (40_link.md R92). -/
  | openLink
  /-- CLOSE: LK.CLOSE (R93). -/
  | closeLink
  /-- VERIFY: VerifyPass (41_checksum.md R105). -/
  | verifyPass
  /-- CORRECT: CorrectPass (R106). -/
  | correctPass
  /-- RECV: LK.FLUSHIN (42_receive.md R122). -/
  | rxFlushIn
  /-- RECV: LK.FLUSHOUT (R122). -/
  | rxFlushOut
  /-- RECV: LK.READ(SEGLEN[b]) (R123, R124). -/
  | rxRead (b : Block)
  /-- RECV: Delay(T_SETTLE) (R123). -/
  | rxSettle (b : Block)
  /-- RECV: LK.WRITE([0x06]) (R123). -/
  | rxAck (b : Block)
  /-- RECV: LK.READ(1), the echo of the ACK (R123). -/
  | rxEcho (b : Block)
  /-- RECV: CorrectPass (R126). -/
  | rxCorrect
  /-- SEND: CorrectPass (43_send.md R142). -/
  | txCorrect
  /-- SEND: LK.FLUSHIN (R143). -/
  | txFlushIn
  /-- SEND: LK.FLUSHOUT (R143). -/
  | txFlushOut
  /-- SEND: LK.WRITE of byte i of block b (R146). -/
  | txWrite (b : Block) (i : Nat)
  /-- SEND: LK.BREAK(T_BREAK) (R147). -/
  | txBreak (b : Block)
  /-- SEND: LK.WAITING of the opportunistic echo read (R148). -/
  | txWaiting (b : Block)
  /-- SEND: LK.READ(n), the echo read (R148). -/
  | txEcho (b : Block) (n : Nat)
  /-- SEND: Delay(T_SETTLE) of AckExchange(b) (R153). -/
  | txSettle (b : Block)
  /-- SEND: LK.WAITING before the device's ACK (R153). -/
  | txAckWaiting (b : Block)
  /-- SEND: LK.READ(n) of the device's ACK (R153). -/
  | txAckRead (b : Block) (n : Nat)
  /-- SEND: LK.WRITE([0x06]) (R153). -/
  | txAck (b : Block)
  /-- SEND: LK.WAITING before the echo of the engine's ACK (R153). -/
  | txAckEchoWaiting (b : Block)
  /-- SEND: LK.READ(n) of the echo of the engine's ACK (R153). -/
  | txAckEchoRead (b : Block) (n : Nat)
  /-- The LK.CLOSE of a completed transfer (R126, R155). -/
  | completing
  /-- The LK.CLOSE of an abort (60_exceptions.md R181). -/
  | aborting
deriving DecidableEq, Repr

/-- One entry of WIRE (10_state.md R27). -/
inductive WireEvent where
  | byte (b : Byte)
  | brk (d : Duration)
deriving DecidableEq, Repr

/-- The six events of the debug trace (30_encoding.md R75). -/
inductive LogEvent where
  | underrun (b : Block) (got want : Nat)
  | ackEcho (d : Dir) (b : Block) (e : List Byte)
  | devAck (b : Block) (e : List Byte)
  | mismatch (b : Block) (i : Nat) (sent : Byte) (e : List Byte)
  | quirk (b : Block) (i : Nat)
  | fatal (b : Block) (i : Nat) (sent : Byte) (e : List Byte)
deriving DecidableEq, Repr

/-- What the SerialLink answered to the last primitive (30_encoding.md R64, column "result"; log 9). -/
inductive LinkResult where
  /-- No primitive has been issued. -/
  | nothing
  /-- The primitive returned without a value. -/
  | done
  /-- LK.READ returned these bytes. -/
  | bytes (r : List Byte)
  /-- LK.WAITING returned this number. -/
  | count (w : Nat)
  /-- LK.OPEN answered fail, or the link failed (40_link.md R81, R91). -/
  | failed
  /-- The primitive has not returned (U6). -/
  | stalled
deriving DecidableEq, Repr

/-- What the host or the device side does next, when it is their turn (log 2). -/
inductive Input where
  /-- A coded unit is presented at its port; for CMD8 this is the host's write of CMD (10_state.md R18). -/
  | unit (u : CodeUnit)
  /-- The host writes a CSR (R17). -/
  | csrWrite (n : Nat) (v : BitVec 16)
  /-- The host reads a CSR (R17). -/
  | csrRead (n : Nat)
  /-- The host writes a byte of IMG (20_memory.md R46). -/
  | imgWrite (a : Nat) (v : Byte)
  /-- The host reads a byte of IMG (R46). -/
  | imgRead (a : Nat)
  /-- The device side appends bytes to RXQ between two engine steps (40_link.md R90). -/
  | arrive (bs : List Byte)
  /-- The host waits while the engine takes one step. -/
  | turn
  /-- The host polls STATUS until BUSY = 0 (30_encoding.md R73). -/
  | poll
  /-- The reset input is asserted (70_reset_and_hazards.md R200). -/
  | reset
deriving DecidableEq, Repr

/-- The stored bytes of IMG: (offset, byte) with offsets strictly rising and inside the image. An offset not
listed holds no stored value: what is read there is the free value `Config.imgUnspecified` (log 4). -/
abbrev Memory := List Host.Cell

/-- The whole state: R10's list, then the model's own fields. -/
structure State where
  /-- IMG (R11). -/
  img : Memory
  /-- LEN (R12, R22). -/
  len : BitVec 16
  /-- ACC (R13). -/
  acc : Byte
  /-- TXB (R13). -/
  txb : Byte
  /-- ECHO (R13). -/
  echo : List Byte
  /-- RXCNT (R13). -/
  rxcnt : BitVec 16
  /-- BLK (R13). -/
  blk : BitVec 2
  /-- IDX (R13). -/
  idx : BitVec 14
  /-- FSM (R15). -/
  fsm : Fsm
  /-- DIR (R16). -/
  dir : Dir
  /-- SEQ's place in the pseudocode (R14). -/
  seq : SeqPos
  /-- STATUS.VOK (R19). -/
  vok : Bool
  /-- STATUS.RECOV1 (R19, R26). -/
  recov1 : Bool
  /-- STATUS.RECOV2 (R19, R26). -/
  recov2 : Bool
  /-- STATUS.UNDERRUN (R19). -/
  underrun : Bool
  /-- ERR (R20). -/
  err : ErrCode
  /-- ERRIDX (R23). -/
  erridx : BitVec 16
  /-- MMCNT (R24). -/
  mmcnt : BitVec 8
  /-- LINKOPEN (R27). -/
  linkOpen : Bool
  /-- RXQ (R27), oldest byte first. -/
  rxq : List Byte
  /-- WIRE (R27), oldest first. -/
  wire : List WireEvent
  /-- LOG (R28), oldest first. -/
  log : List LogEvent
  /-- MODEL's own: the answer of the last link primitive (log 9). -/
  lkres : LinkResult
  /-- MODEL's own: the value last returned to the host (log 20). -/
  hrd : BitVec 16
  /-- MODEL's own: what the host and the device side do next (log 2). -/
  inputs : List Input
  /-- MODEL's own: the device side's queued moves (log 2). -/
  dev : List DevMove
  /-- MODEL's own: how many free values have been drawn (log 3). -/
  draws : Nat
  /-- MODEL's own: how many resets there were (log 4). -/
  epoch : Nat
  /-- MODEL's own: the parameters of 00_scope.md R7 (log 15). -/
  cfg : Config.Params
deriving DecidableEq, Repr

/-- Why the machine stops with a fault. -/
inductive Fault where
  /-- The engine addressed an image offset above 0x3F52. Raised by the sequencer in block send and in RECV's
  MemWrite. Safe: R70 says it never happens, and no state that satisfies `Safety.Inv` reaches it. -/
  | imgOffset
deriving DecidableEq, Repr

/-- Why a step has no meaning. -/
inductive Refusal where
  /-- No meaning yet; raised by `exec` only. Safe. -/
  | notModelled (mnemonic : String)
  /-- A link primitive other than LK.OPEN and LK.CLOSE with LINKOPEN = 0, which 10_state.md R27 forbids.
  Raised by the link primitives. Safe. -/
  | linkNotOpen
  /-- The host accessed IMG or LEN while BUSY = 1 (20_memory.md R46, U7 "refuse"). Raised by the host port. Safe. -/
  | hostAccessWhileBusy
  /-- The host accessed an image offset above 0x3F52 (R46, U8 "refuse"). Raised by the host port. Safe. -/
  | hostImgOffset
  /-- The host accessed a CSR number above 6 (10_state.md R17, U9 "refuse"). Raised by the host port. Safe. -/
  | csrNumber
  /-- A reserved link request, or an operand of the wrong kind (30_encoding.md R64). Raised when a unit is
  presented. Safe. -/
  | reservedRequest
  /-- Characters that are no protocol symbol (R67). Raised when a unit is presented. Safe. -/
  | unknownSymbol
  /-- A link request or wire symbol presented from outside while a command runs: the engine presents them
  (R64). Raised when a unit is presented. Safe. -/
  | portBusy
deriving DecidableEq, Repr

/-- The machine right after power-up reset (10_state.md R31). ACC, TXB, ECHO, RXCNT and IDX are unspecified
there: the values are the model's (DESIGN CHOICE, log 5); RXQ is undefined (log 6); IMG has nothing stored
(log 4). -/
def State.reset : State where
  img := []
  len := 0
  acc := 0
  txb := 0
  echo := []
  rxcnt := 0
  blk := 0
  idx := 0
  fsm := .idle
  dir := .none
  seq := .idle
  vok := false
  recov1 := false
  recov2 := false
  underrun := false
  err := .none
  erridx := 0
  mmcnt := 0
  linkOpen := false
  rxq := []
  wire := []
  log := []
  lkres := .nothing
  hrd := 0
  inputs := []
  dev := []
  draws := 0
  epoch := 0
  cfg := Config.Params.default

/-- The outcome type of a step. -/
abbrev Out := Host.Outcome State Fault Refusal

end Sys2Proof.Machine
end

