-- ==== Sys2Proof/Machine/Operands.lean ====
section
/-! DEFINITION. The operands of the block: the constant tables of 00_scope.md R6, the effective addresses of
30_encoding.md R70, the one computed operand of R71, and the serial character of R65. -/

namespace Sys2Proof.Machine

/-- SEGLEN (R6). -/
def segLen : Block → Nat
  | .one => 10
  | .two => 8
  | .three => 16193

/-- SEGBASE (R6). -/
def segBase : Block → Nat
  | .one => 0
  | .two => 10
  | .three => 18

/-- The value of BLK for a block (10_state.md R13). -/
def blockCode : Block → BitVec 2
  | .one => 1#2
  | .two => 2#2
  | .three => 3#2

/-- FSM while a block is in progress (R15). -/
def segState : Block → Fsm
  | .one => .segment1
  | .two => .segment2
  | .three => .segment3

/-- The block after a non-final block; the final block is its own (43_send.md R144). -/
def nextBlock : Block → Block
  | .one => .two
  | .two => .three
  | .three => .three

/-- final(b) (43_send.md R144). -/
def isFinal : Block → Bool
  | .one => false
  | .two => false
  | .three => true

/-- CKOFF (R6). -/
def ckOff : Region → Nat
  | .one => 0x611
  | .two => 0x691
  | .three => 0x3F52

/-- RSTART (R6, R70). -/
def rStart : Region → Nat
  | .one => 0x592
  | .two => 0x612
  | .three => 0

/-- The size of an opportunistic read, max(w, m) (R71, 40_link.md R89). -/
def oppReadSize (w m : Nat) : Nat := max w m

/-- The smallest size of the two reads of the send-side ACK exchange (43_send.md R153). -/
def ackReadMin (s : State) : Nat := s.cfg.ackReadMin.val

/-- The bit times of the serial character that carries one byte (30_encoding.md R65): a start bit 0, the data
bits least significant first, the stop bits 1. PRESUMED by the spec itself (G1, log 27); no rule of the model
depends on it. -/
def charFrame (b : Byte) : List Bool :=
  false :: (List.range 8).map b.getLsbD ++ List.replicate Config.stopBits true

end Sys2Proof.Machine
end

