-- ==== Sys2Proof/Machine/Flags.lean ====
section
/-! DEFINITION. The status registers as the host reads them (10_state.md R18 to R24) and every flag computation:
the echo comparison (43_send.md R149), the quirk test (R151), and the setting and clearing of flags (R25). -/

namespace Sys2Proof.Machine

/-- The code of FSM (R15). -/
def Fsm.code : Fsm → BitVec 3
  | .idle => 0#3
  | .flushed => 1#3
  | .segment1 => 2#3
  | .segment2 => 3#3
  | .segment3 => 4#3
  | .complete => 5#3
  | .aborted => 6#3

/-- The code of DIR (R16). -/
def Dir.code : Dir → BitVec 2
  | .none => 0#2
  | .rx => 1#2
  | .tx => 2#2

/-- The code of an error (60_exceptions.md R171). -/
def ErrCode.code : ErrCode → BitVec 4
  | .none => 0#4
  | .linkUnavailable => 1#4
  | .lengthMismatch => 2#4
  | .echoMismatchFatal => 3#4
  | .checksumInvalid => 4#4
  | .illegalCommand => 5#4

/-- STATUS.BUSY: a command runs (R19, R32). It is stored once, as the place in the pseudocode (log 23). -/
def State.busy (s : State) : Bool := s.seq != .idle

/-- STATUS as the host reads it (R19); bits 7 and 6 read as 0. -/
def State.statusReg (s : State) : BitVec 8 :=
  0#2 ++ BitVec.ofBool s.underrun ++ BitVec.ofBool s.recov2 ++ BitVec.ofBool s.recov1 ++
    BitVec.ofBool s.vok ++ BitVec.ofBool s.linkOpen ++ BitVec.ofBool s.busy

/-- ERR as the host reads it (R20); bits 7 to 4 read as 0. -/
def State.errReg (s : State) : BitVec 8 := 0#4 ++ s.err.code

/-- FSMR as the host reads it (R21); bits 7 to 5 read as 0. -/
def State.fsmReg (s : State) : BitVec 8 := 0#3 ++ s.dir.code ++ s.fsm.code

/-- The echo matches if and only if it is the one-byte string of the byte sent (43_send.md R149). -/
def echoMatches (sent : Byte) (e : List Byte) : Bool := e == [sent]

/-- The quirk condition on the byte sent and its echo (R151, 30_encoding.md R68). -/
def isQuirk (sent : Byte) (e : List Byte) : Bool := sent == 0xFF#8 && e == Config.quirkEcho

/-- RECOV[b] <- 1 (10_state.md R26: there is no RECOV[3]). -/
def State.setRecov (b : Block) (s : State) : State :=
  match b with
  | .one => { s with recov1 := true }
  | .two => { s with recov2 := true }
  | .three => s

/-- RECOV[b] as a flag. -/
def State.recov (b : Block) (s : State) : Bool :=
  match b with
  | .one => s.recov1
  | .two => s.recov2
  | .three => false

/-- The writes that create a transfer session (30_encoding.md R77): FSM and DIR, and the clearing of the
per-transfer flags. -/
def State.startSession (d : Dir) (s : State) : State :=
  { s with
    fsm := .idle, dir := d, recov1 := false, recov2 := false, underrun := false, mmcnt := 0,
    erridx := 0, blk := 0 }

/-- The segment read of block b returned `got` bytes: STATUS.UNDERRUN and the LOG event when that is fewer than
asked (42_receive.md R123, R124). -/
def State.noteUnderrun (b : Block) (got : Nat) (s : State) : State :=
  if got < segLen b then
    { s with underrun := true, log := s.log ++ [.underrun b got (segLen b)] }
  else s

/-- An echo mismatch that is counted, logged and passed over (43_send.md R152). -/
def State.noteMismatch (b : Block) (e : List Byte) (s : State) : State :=
  { s with
    mmcnt := s.mmcnt + 1, log := s.log ++ [.mismatch b s.idx.toNat s.txb e] }

/-- The quirk in block b (43_send.md R151). -/
def State.noteQuirk (b : Block) (s : State) : State :=
  let t := s.setRecov b
  { t with log := t.log ++ [.quirk b t.idx.toNat] }

/-- The fatal mismatch in the final block (43_send.md R150): ERRIDX and the LOG event. -/
def State.noteFatal (b : Block) (e : List Byte) (s : State) : State :=
  { s with
    erridx := s.idx.setWidth 16, log := s.log ++ [.fatal b s.idx.toNat s.txb e] }

end Sys2Proof.Machine
end

