-- ==== Sys2Proof/Machine/Ops.lean ====
section
/-! DEFINITION. The named operations over the image and the link, the raising of an error (60_exceptions.md R181,
R182) and the acknowledgement of one (R183). -/

namespace Sys2Proof.Machine

/-- The stored byte at an offset, if one is listed. -/
def Memory.lookup : Memory → Nat → Option Byte
  | [], _ => none
  | (k, v) :: rest, a => if k = a then some v else Memory.lookup rest a

/-- Store one byte, keeping the offsets strictly rising. -/
def Memory.write : Memory → Nat → Byte → Memory
  | [], a, b => [(a, b)]
  | (k, v) :: rest, a, b =>
    if a < k then (a, b) :: (k, v) :: rest
    else if a = k then (a, b) :: rest
    else (k, v) :: Memory.write rest a b

/-- MemWrite(a, |bs|, bs): ascending single-byte writes (00_scope.md R9, 20_memory.md R45). -/
def Memory.writeBytes : Memory → Nat → List Byte → Memory
  | m, _, [] => m
  | m, a, b :: bs => Memory.writeBytes (m.write a b) (a + 1) bs

/-- The canonical form: offsets strictly rising and inside the image (10_state.md R11). -/
def Memory.wf (m : Memory) : Bool :=
  decide (m.Pairwise (fun c d => c.1 < d.1)) && m.all (fun c => c.1 < Config.imgLen)

/-- IMG[a] as it reads: the stored byte, else the free value of an unwritten offset (R31, log 4). -/
def State.imgByte (s : State) (a : Nat) : Byte :=
  (Memory.lookup s.img a).getD (Config.imgUnspecified s.epoch a)

/-- IMG[a] <- v (00_scope.md R9). -/
def State.setImg (a : Nat) (v : Byte) (s : State) : State := { s with img := Memory.write s.img a v }

/-- The step moves on to another place of the pseudocode (10_state.md R14). -/
def State.goTo (p : SeqPos) (s : State) : State := { s with seq := p }

/-- The command ends: STATUS.BUSY <- 0 (10_state.md R32). ACC, TXB, ECHO, RXCNT and IDX keep the values the command
left in them, where 93_implementation_defined.md U14 allows any value (DESIGN CHOICE, unsafe, log 35). -/
def State.finish (s : State) : State := { s with seq := .idle }

/-- Append one event to the debug trace (10_state.md R28). -/
def State.addLog (e : LogEvent) (s : State) : State := { s with log := s.log ++ [e] }

/-- A transfer has started and not ended (60_exceptions.md R181): RECV or SEND is past its precondition
checks. -/
def SeqPos.inTransfer : SeqPos → Bool
  | .idle | .openLink | .closeLink | .verifyPass | .correctPass => false
  | .rxFlushIn | .rxFlushOut | .rxRead _ | .rxSettle _ | .rxAck _ | .rxEcho _ | .rxCorrect => true
  | .txCorrect | .txFlushIn | .txFlushOut | .txWrite _ _ | .txBreak _ | .txWaiting _ => true
  | .txEcho _ _ | .txSettle _ | .txAckWaiting _ | .txAckRead _ _ | .txAck _ => true
  | .txAckEchoWaiting _ | .txAckEchoRead _ _ | .completing | .aborting => true

/-- `raise` (00_scope.md R9), the one way an error is taken. After a transfer has started it is an abort: ERR,
FSM = ABORTED, then the LK.CLOSE step (60_exceptions.md R181). Otherwise it is a rejection: ERR and BUSY only
(R182). -/
def State.raiseError (e : ErrCode) (s : State) : State :=
  if s.seq.inTransfer then { s with err := e, fsm := .aborted, seq := .aborting }
  else { s with err := e, seq := .idle }

/-- The decoder takes a command byte: ERR <- 0, "the only acknowledgement" of an error (60_exceptions.md R183,
30_encoding.md R77). There is no return instruction. -/
def State.acknowledge (s : State) : State := { s with err := .none }

/-- The dispatch common to the commands (30_encoding.md R77): dropped while BUSY = 1, else ERR <- 0 and the
command's own rule. -/
def dispatch (body : State → State) (s : State) : State :=
  if s.busy then s else body s.acknowledge

/-- A command byte outside R62 (30_encoding.md R63, R77; 60_exceptions.md R177). -/
def illegalCommand (s : State) : State := dispatch (State.raiseError .illegalCommand) s

/-- The device side's move at the coming link step: the queued one, else a free one (40_link.md R90, log 3). -/
def State.nextMove (s : State) : DevMove :=
  match s.dev with
  | m :: _ => m
  | [] => Config.deviceMove s.draws

/-- The move has been made. -/
def State.dropMove (s : State) : State :=
  match s.dev with
  | _ :: rest => { s with dev := rest }
  | [] => { s with draws := s.draws + 1 }

/-- RXQ after the device side appends `bs` to `q`, subject to W_MAX: an append that does not fit cannot be made
(40_link.md R90, U4; log 16). -/
def enqueue (wMax : Option Nat) (q bs : List Byte) : List Byte :=
  match wMax with
  | none => q ++ bs
  | some w => if q.length + bs.length ≤ w then q ++ bs else q

/-- The device side appends bytes to the tail of RXQ (40_link.md R90). -/
def State.arrive (bs : List Byte) (s : State) : State := { s with rxq := enqueue s.cfg.wMax s.rxq bs }

/-- The device side's move at a link step or a Delay: its bytes arrive. -/
def State.deviceTurn (s : State) : State := s.dropMove.arrive s.nextMove.arrive

/-- The link answers a primitive. -/
def State.answer (r : LinkResult) (s : State) : State := { s with lkres := r }

/-- What becomes of a primitive other than LK.OPEN and LK.CLOSE at this link step (40_link.md R83 to R88, R91):
whether the device side makes it fail, holds it (only a write or a break can fail to return, U6), or lets it
return. -/
def State.moveAnswer (mayStall : Bool) (s : State) : Answer :=
  match s.nextMove.answer with
  | .ok => .ok
  | .fail => if s.cfg.linkFail then .fail else .ok
  | .stall => if mayStall then .stall else .ok

/-- One link primitive other than LK.OPEN and LK.CLOSE: the device side moves, then the primitive fails, is
still held, or has its effect. A primitive that fails or is held has put nothing on WIRE (DESIGN CHOICE, log 22) and
has taken nothing out of RXQ (DESIGN CHOICE, log 36). -/
def State.linkStep (mayStall : Bool) (effect : State → State) (s : State) : State :=
  match s.moveAnswer mayStall with
  | .ok => effect s.deviceTurn
  | .fail => s.deviceTurn.answer .failed
  | .stall => s.deviceTurn.answer .stalled

/-- A primitive that may be issued only while LINKOPEN = 1 (10_state.md R27). -/
def whenOpen (act : State → State) (s : State) : Out :=
  if s.linkOpen then .next (act s) else .refused .linkNotOpen

/-- The effect of LK.READ(n) once the bytes are there or the timeout has elapsed (40_link.md R83). -/
def State.takeBytes (n : Nat) (s : State) : State :=
  { s with rxq := s.rxq.drop n, lkres := .bytes (s.rxq.take n) }

/-- The effect of LK.WRITE(bs) (R84). -/
def State.putBytes (bs : List Byte) (s : State) : State :=
  { s with wire := s.wire ++ bs.map .byte, lkres := .done }

/-- The effect of LK.BREAK(d) (R85). -/
def State.putBreak (d : Duration) (s : State) : State :=
  { s with wire := s.wire ++ [.brk d], lkres := .done }

/-- The effect of LK.WAITING (R86). -/
def State.countWaiting (s : State) : State := { s with lkres := .count s.rxq.length }

/-- The effect of LK.FLUSHIN (R87). -/
def State.dropInput (s : State) : State := { s with rxq := [], lkres := .done }

/-- LK.OPEN (R81): LINKOPEN and RXQ on "available", nothing on fail; it may not return (U6). -/
def State.openPort (s : State) : State :=
  match s.nextMove.answer with
  | .ok =>
    { s.dropMove with
      linkOpen := true, rxq := enqueue s.cfg.wMax [] s.nextMove.arrive, lkres := .done }
  | .fail => s.dropMove.answer .failed
  | .stall => s.dropMove.answer .stalled

/-- LK.CLOSE (R82): LINKOPEN <- 0 and RXQ undefined, a free value; closing a closed link does nothing. -/
def State.closePort (s : State) : State :=
  if s.linkOpen then
    { s with
      linkOpen := false, rxq := Config.undefinedRxq s.draws, draws := s.draws + 1, lkres := .done }
  else s.answer .done

/-- Delay(t) (R95): nothing but device-side moves; a Delay is no primitive and cannot fail. -/
def State.delay (s : State) : State := s.deviceTurn

/-- The reset input (70_reset_and_hazards.md R200): every piece of state at the value of R31, IMG unspecified
anew. What lies outside the block goes on: the queues of the host and the device side, the value last read, the
parameters, the count of draws (log 24). -/
def State.doReset (s : State) : State :=
  { State.reset with
    hrd := s.hrd, inputs := s.inputs, dev := s.dev, draws := s.draws, epoch := s.epoch + 1, cfg := s.cfg }

end Sys2Proof.Machine
end

