-- ==== Sys2Proof/Machine/Checksum.lean ====
section
/-! DEFINITION. The Checksum-engine (41_checksum.md): the sum, the two passes, VERIFY and CORRECT. -/

namespace Sys2Proof.Machine

/-- Sum8(a, b): the sum of IMG[a] to IMG[b], in ascending order, modulo 256 (R100). -/
def State.sum8 (s : State) (a b : Nat) : Byte :=
  ((List.range' a (b + 1 - a)).map s.imgByte).foldl (· + ·) 0

/-- Computed(r) (R101). -/
def State.computed (r : Region) (s : State) : Byte := s.sum8 (rStart r) (ckOff r - 1)

/-- Stored(r) (R101). -/
def State.stored (r : Region) (s : State) : Byte := s.imgByte (ckOff r)

/-- Match(r) (R101). -/
def State.regionMatches (r : Region) (s : State) : Bool := s.computed r == s.stored r

/-- VerifyPass (R103). -/
def State.verifyPass (s : State) : Bool :=
  s.regionMatches .one && s.regionMatches .two && s.regionMatches .three

/-- One region of CorrectPass (R104): ACC holds the sum, a write happens only on a mismatch. -/
def State.correctRegion (r : Region) (s : State) : State :=
  let t : State := { s with acc := s.computed r }
  if t.stored r = t.acc then t else t.setImg (ckOff r) t.acc

/-- CorrectPass (R104): regions 1, 2, 3 in this order, each on the buffer as corrected so far. -/
def State.correctPass (s : State) : State :=
  ((s.correctRegion .one).correctRegion .two).correctRegion .three

/-- VERIFY's own rule up to its pass (R105): the declared length. -/
def verifyBody (s : State) : State :=
  if s.len.toNat = Config.imgLen then s.goTo .verifyPass
  else { s with vok := false }.raiseError .lengthMismatch

/-- The VerifyPass step of VERIFY (R105). All three sums are taken, so ACC ends as Computed(3) (log 19). -/
def verifyStep (s : State) : State :=
  let t : State := { s with acc := s.computed .three, vok := s.verifyPass }
  if s.verifyPass then t.finish else t.raiseError .checksumInvalid

/-- CORRECT's own rule up to its pass (R106). -/
def correctBody (s : State) : State :=
  if s.len.toNat = Config.imgLen then s.goTo .correctPass else s.raiseError .lengthMismatch

/-- The CorrectPass step of CORRECT (R106). -/
def correctStep (s : State) : State := s.correctPass.finish

/-- VERIFY (R105). -/
def execVerify (s : State) : Out := .next (dispatch verifyBody s)

/-- CORRECT (R106). -/
def execCorrect (s : State) : Out := .next (dispatch correctBody s)

end Sys2Proof.Machine
end

