-- ==== Sys2Proof/Machine/Link.lean ====
section
/-! DEFINITION. The SerialLink (40_link.md): the eight link primitives, OPEN and CLOSE. -/

namespace Sys2Proof.Machine

/-- LK.OPEN (R81). -/
def execLkOpen (s : State) : Out := .next s.openPort

/-- LK.CLOSE (R82): it cannot fail and needs no open link. -/
def execLkClose (s : State) : Out := .next s.closePort

/-- LK.READ(n) (R83): it returns the first n bytes of RXQ, or all of them when fewer came in time. -/
def execLkRead (n : Nat) (s : State) : Out := whenOpen (State.linkStep false (State.takeBytes n)) s

/-- LK.WRITE(bs) (R84). -/
def execLkWrite (bs : List Byte) (s : State) : Out := whenOpen (State.linkStep true (State.putBytes bs)) s

/-- LK.BREAK(d) (R85). -/
def execLkBreak (d : Duration) (s : State) : Out := whenOpen (State.linkStep true (State.putBreak d)) s

/-- LK.WAITING (R86). -/
def execLkWaiting (s : State) : Out := whenOpen (State.linkStep false State.countWaiting) s

/-- LK.FLUSHIN (R87). -/
def execLkFlushin (s : State) : Out := whenOpen (State.linkStep false State.dropInput) s

/-- LK.FLUSHOUT (R88): there are never unsent bytes, so it changes nothing. -/
def execLkFlushout (s : State) : Out := whenOpen (State.linkStep false (State.answer .done)) s

/-- OPEN's own rule up to LK.OPEN (R92): an open link is "already claimed". -/
def openBody (s : State) : State :=
  if s.linkOpen then s.raiseError .linkUnavailable else s.goTo .openLink

/-- CLOSE's own rule up to LK.CLOSE (R93). -/
def closeBody (s : State) : State := s.goTo .closeLink

/-- OPEN (R92). -/
def execOpen (s : State) : Out := .next (dispatch openBody s)

/-- CLOSE (R93). -/
def execClose (s : State) : Out := .next (dispatch closeBody s)

end Sys2Proof.Machine
end

