-- ==== Sys2Proof/Machine/Transfer.lean ====
section
/-! DEFINITION. The BlockTransferEngine's own computations: the preconditions of RECV and SEND, the storing of a
segment (42_receive.md), the decision on an echo (43_send.md), and the two wire symbols. -/

namespace Sys2Proof.Machine

/-- RECV's own rule up to its first primitive (42_receive.md R121). -/
def recvBody (s : State) : State :=
  let t := s.startSession .rx
  if t.linkOpen then t.goTo .rxFlushIn else t.raiseError .linkUnavailable

/-- SEND's own rule up to its first step (43_send.md R141): the length is checked before the link. -/
def sendBody (s : State) : State :=
  let t := s.startSession .tx
  if t.len.toNat = Config.imgLen then
    if t.linkOpen then t.goTo .txCorrect else t.raiseError .linkUnavailable
  else t.raiseError .lengthMismatch

/-- RECV (42_receive.md R127). -/
def execRecv (s : State) : Out := .next (dispatch recvBody s)

/-- SEND (43_send.md R156). -/
def execSend (s : State) : Out := .next (dispatch sendBody s)

/-- MemWrite(RXCNT, |r|, r); RXCNT <- RXCNT + |r|, then the underrun test of segment b (R123, R124). -/
def storeSegment (b : Block) (r : List Byte) (s : State) : State :=
  { s with
    img := Memory.writeBytes s.img s.rxcnt.toNat r
    rxcnt := s.rxcnt + BitVec.ofNat 16 r.length }.noteUnderrun b r.length

/-- LEN <- RXCNT and the length check after segment 3 (R125). -/
def checkLength (s : State) : State :=
  let t : State := { s with len := s.rxcnt }
  if t.rxcnt.toNat = Config.imgLen then t.goTo .rxCorrect else t.raiseError .lengthMismatch

/-- After the segment read: the settle delay for segments 1 and 2 (R123), the length check after segment 3. -/
def afterSegment (b : Block) (s : State) : State :=
  match b with
  | .one => s.goTo (.rxSettle .one)
  | .two => s.goTo (.rxSettle .two)
  | .three => checkLength s

/-- The end of block b's byte loop (43_send.md R153, R154, R155). -/
def blockDone (b : Block) (s : State) : State :=
  match b with
  | .one => s.goTo (.txSettle .one)
  | .two => s.goTo (.txSettle .two)
  | .three => s.goTo .completing

/-- `continue` of the byte loop (R145): the next byte, or the end of the block. -/
def continueBlock (b : Block) (s : State) : State :=
  if s.idx.toNat + 1 < segLen b then s.goTo (.txWrite b (s.idx.toNat + 1)) else blockDone b s

/-- Where the echo of byte IDX is read (R148): a read of exactly 1 for the last byte of the block, else the
opportunistic read, which begins with LK.WAITING. -/
def echoPlace (b : Block) (s : State) : SeqPos :=
  if s.idx.toNat + 1 = segLen b then .txEcho b 1 else .txWaiting b

/-- The decision on the echo of byte IDX of block b (R145, R149 to R152). -/
def echoTaken (b : Block) (e : List Byte) (s : State) : State :=
  let t : State := { s with echo := e }
  if echoMatches t.txb e then continueBlock b t
  else if isFinal b then (t.noteFatal b e).raiseError .echoMismatchFatal
  else if isQuirk t.txb e then blockDone b (t.noteQuirk b)
  else continueBlock b (t.noteMismatch b e)

/-- ACK (30_encoding.md R67): the engine puts the symbol on the wire, as LK.WRITE([0x06]) (log 13). -/
def execAck (s : State) : Out := execLkWrite [Config.ackByte] s

/-- QUIRK (30_encoding.md R68): the pattern FF FF 06 is what the outstanding echo read of at least three bytes
returned (40_link.md R83: no read returns more than it asked); its handling is the decision on that echo.
Anywhere else no rule gives the pattern a meaning and nothing happens (log 14). -/
def execQuirk (s : State) : Out :=
  match s.seq with
  | .txEcho b n => .next (if 3 ≤ n then echoTaken b Config.quirkEcho s else s)
  | .idle | .openLink | .closeLink | .verifyPass | .correctPass => .next s
  | .rxFlushIn | .rxFlushOut | .rxRead _ | .rxSettle _ | .rxAck _ | .rxEcho _ | .rxCorrect => .next s
  | .txCorrect | .txFlushIn | .txFlushOut | .txWrite _ _ | .txBreak _ | .txWaiting _ => .next s
  | .txSettle _ | .txAckWaiting _ | .txAckRead _ _ | .txAck _ => .next s
  | .txAckEchoWaiting _ | .txAckEchoRead _ _ | .completing | .aborting => .next s

end Sys2Proof.Machine
end

