-- ==== Sys2Proof/Machine/Dispatch.lean ====
section
/-! DEFINITION. One arm per row of spec/opcode_table.json. -/

namespace Sys2Proof.Machine

def exec (i : Instr) (s : State) : Host.Outcome State Fault Refusal :=
  match i with
  -- host commands (30_encoding.md R62)
  | .cmdOpen => Sys2Proof.Machine.execOpen s
  | .cmdClose => Sys2Proof.Machine.execClose s
  | .cmdVerify => Sys2Proof.Machine.execVerify s
  | .cmdCorrect => Sys2Proof.Machine.execCorrect s
  | .cmdRecv => Sys2Proof.Machine.execRecv s
  | .cmdSend => Sys2Proof.Machine.execSend s
  -- link primitives (30_encoding.md R64)
  | .lkOpen => Sys2Proof.Machine.execLkOpen s
  | .lkClose => Sys2Proof.Machine.execLkClose s
  | .lkRead n => Sys2Proof.Machine.execLkRead n s
  | .lkWrite bs => Sys2Proof.Machine.execLkWrite bs s
  | .lkBreak d => Sys2Proof.Machine.execLkBreak d s
  | .lkWaiting => Sys2Proof.Machine.execLkWaiting s
  | .lkFlushin => Sys2Proof.Machine.execLkFlushin s
  | .lkFlushout => Sys2Proof.Machine.execLkFlushout s
  -- wire symbols (30_encoding.md R67, R68)
  | .ack => Sys2Proof.Machine.execAck s
  | .quirk => Sys2Proof.Machine.execQuirk s

end Sys2Proof.Machine
end

