-- ==== Sys2Proof/Machine/Sequencer.lean ====
section
/-! DEFINITION. The sequencer (10_state.md R14): which unit each place of the pseudocode presents, the lines
before it (`enter`) and after it (`resume`), and one engine step. -/

namespace Sys2Proof.Machine

/-- The lines of the pseudocode between the previous step and this one (log 1): the entry of a segment or block
(42_receive.md R123, R124; 43_send.md R156), the fetch of the byte to send (R145), FSM <- COMPLETE (R126, R155). -/
def State.enter (s : State) : State :=
  match s.seq with
  | .rxRead b => { s with fsm := segState b, blk := blockCode b }
  | .txWrite b i =>
    let t : State := if i = 0 then { s with fsm := segState b, blk := blockCode b } else s
    { t with idx := BitVec.ofNat 14 i, txb := t.imgByte (segBase b + i) }
  | .completing => { s with fsm := .complete }
  | .idle | .openLink | .closeLink | .verifyPass | .correctPass => s
  | .rxFlushIn | .rxFlushOut | .rxSettle _ | .rxAck _ | .rxEcho _ | .rxCorrect => s
  | .txCorrect | .txFlushIn | .txFlushOut | .txBreak _ | .txWaiting _ | .txEcho _ _ => s
  | .txSettle _ | .txAckWaiting _ | .txAckRead _ _ | .txAck _ => s
  | .txAckEchoWaiting _ | .txAckEchoRead _ _ | .aborting => s

/-- The unit presented at a place: a link request, or the ACK symbol (42_receive.md R127, 43_send.md R145, R153,
R156). Delays and checksum passes present none. -/
def State.request (s : State) : Option CodeUnit :=
  match s.seq with
  | .openLink => some (.lkReq 0x1#4 .none)
  | .closeLink | .completing | .aborting => some (.lkReq 0x2#4 .none)
  | .rxFlushIn | .txFlushIn => some (.lkReq 0x7#4 .none)
  | .rxFlushOut | .txFlushOut => some (.lkReq 0x8#4 .none)
  | .rxRead b => some (.lkReq 0x3#4 (.size (segLen b)))
  | .rxAck _ | .txAck _ => some (.symbol [Config.ackByte])
  | .rxEcho _ => some (.lkReq 0x3#4 (.size 1))
  | .txWrite _ _ => some (.lkReq 0x4#4 (.data [s.txb]))
  | .txBreak _ => some (.lkReq 0x5#4 (.duration .tBreak))
  | .txWaiting _ | .txAckWaiting _ | .txAckEchoWaiting _ => some (.lkReq 0x6#4 .none)
  | .txEcho _ n | .txAckRead _ n | .txAckEchoRead _ n => some (.lkReq 0x3#4 (.size n))
  | .idle | .verifyPass | .correctPass | .rxSettle _ | .rxCorrect | .txCorrect | .txSettle _ => none

/-- A step that presents no unit: a checksum pass (41_checksum.md R103, R104) or a Delay (40_link.md R95). -/
def localStep (s : State) : State :=
  match s.seq with
  | .verifyPass => verifyStep s
  | .correctPass => correctStep s
  | .rxCorrect => s.correctPass.goTo .completing
  | .txCorrect => s.correctPass.goTo .txFlushIn
  | .rxSettle b => s.delay.goTo (.rxAck b)
  | .txSettle b => s.delay.goTo (.txAckWaiting b)
  | .idle | .openLink | .closeLink => s
  | .rxFlushIn | .rxFlushOut | .rxRead _ | .rxAck _ | .rxEcho _ => s
  | .txFlushIn | .txFlushOut | .txWrite _ _ | .txBreak _ | .txWaiting _ | .txEcho _ _ => s
  | .txAckWaiting _ | .txAckRead _ _ | .txAck _ => s
  | .txAckEchoWaiting _ | .txAckEchoRead _ _ | .completing | .aborting => s

/-- The byte string that a read returned. -/
def LinkResult.bytesOf : LinkResult → List Byte
  | .bytes r => r
  | .nothing | .done | .count _ | .failed | .stalled => []

/-- The number that LK.WAITING returned. -/
def LinkResult.countOf : LinkResult → Nat
  | .count w => w
  | .nothing | .done | .bytes _ | .failed | .stalled => 0

/-- The lines after a primitive that has returned, up to the next step. -/
def State.proceed (s : State) : State :=
  match s.seq with
  | .openLink | .closeLink | .completing | .aborting => s.finish
  | .rxFlushIn => s.goTo .rxFlushOut
  | .rxFlushOut => { s with fsm := .flushed, rxcnt := 0 }.goTo (.rxRead .one)
  | .rxRead b => afterSegment b (storeSegment b s.lkres.bytesOf s)
  | .rxAck b => s.goTo (.rxEcho b)
  | .rxEcho b => (s.addLog (.ackEcho .rx b s.lkres.bytesOf)).goTo (.rxRead (nextBlock b))
  | .txFlushIn => s.goTo .txFlushOut
  | .txFlushOut => { s with fsm := .flushed }.goTo (.txWrite .one 0)
  | .txWrite b _ => if isFinal b then s.goTo (echoPlace b s) else s.goTo (.txBreak b)
  | .txBreak b => s.goTo (echoPlace b s)
  | .txWaiting b => s.goTo (.txEcho b (oppReadSize s.lkres.countOf 1))
  | .txEcho b _ => echoTaken b s.lkres.bytesOf s
  | .txAckWaiting b => s.goTo (.txAckRead b (oppReadSize s.lkres.countOf (ackReadMin s)))
  | .txAckRead b _ => (s.addLog (.devAck b s.lkres.bytesOf)).goTo (.txAck b)
  | .txAck b => s.goTo (.txAckEchoWaiting b)
  | .txAckEchoWaiting b => s.goTo (.txAckEchoRead b (oppReadSize s.lkres.countOf (ackReadMin s)))
  | .txAckEchoRead b _ =>
    (s.addLog (.ackEcho .tx b s.lkres.bytesOf)).goTo (.txWrite (nextBlock b) 0)
  | .idle | .verifyPass | .correctPass | .rxSettle _ | .rxCorrect | .txCorrect | .txSettle _ => s

/-- After the link has answered: a failure raises LinkUnavailable (40_link.md R91, R92), a primitive that has not
returned leaves the engine where it is (U6), any other answer lets the pseudocode go on. -/
def State.resume (s : State) : State :=
  match s.lkres with
  | .failed => s.raiseError .linkUnavailable
  | .stalled => s
  | .nothing | .done | .bytes _ | .count _ => s.proceed

/-- Sequence two outcomes. -/
def andThen (o : Out) (f : State → Out) : Out :=
  match o with
  | .next s => f s
  | .fault r => .fault r
  | .refused r => .refused r

/-- Every image offset that the coming step's MemRead or MemWrite can touch is inside IMG (30_encoding.md R70;
log 26). -/
def State.offsetsInside (s : State) : Bool :=
  match s.seq with
  | .rxRead b => decide (s.rxcnt.toNat + segLen b ≤ Config.imgLen)
  | .txWrite b i => decide (segBase b + i < Config.imgLen)
  | .idle | .openLink | .closeLink | .verifyPass | .correctPass => true
  | .rxFlushIn | .rxFlushOut | .rxSettle _ | .rxAck _ | .rxEcho _ | .rxCorrect => true
  | .txCorrect | .txFlushIn | .txFlushOut | .txBreak _ | .txWaiting _ | .txEcho _ _ => true
  | .txSettle _ | .txAckWaiting _ | .txAckRead _ _ | .txAck _ => true
  | .txAckEchoWaiting _ | .txAckEchoRead _ _ | .completing | .aborting => true

/-- The instruction a presented unit stands for, run; a unit that decodes to none has no meaning here. -/
def runUnit (u : CodeUnit) (s : State) : Out :=
  match decode u with
  | .ok i => exec i s
  | .error .noRequest => .next s
  | .error .unknownSymbol => .refused .unknownSymbol
  | .error .illegalCommand | .error .reservedRequest | .error .operandKind => .refused .reservedRequest

/-- One engine step (10_state.md R14): the unit of the current place is decoded and run, or the place's own pass
or Delay is. An idle engine does nothing (70_reset_and_hazards.md R201). -/
def engineStep (s : State) : Out :=
  if s.offsetsInside then
    match s.enter.request with
    | none => .next (localStep s)
    | some u => andThen (runUnit u s.enter) (fun t => .next t.resume)
  else .fault .imgOffset

end Sys2Proof.Machine
end

