-- ==== Sys2Proof/Machine/HostPort.lean ====
section
/-! DEFINITION. The host's side (10_state.md R17 to R24, 20_memory.md R46) and the taking of one outside event. -/

namespace Sys2Proof.Machine

/-- The value a CSR reads as (R17 to R24); CMD reads as 0. -/
def State.csrValue (s : State) (n : Nat) : Option (BitVec 16) :=
  if n = 0 then some 0
  else if n = 1 then some (s.statusReg.setWidth 16)
  else if n = 2 then some (s.errReg.setWidth 16)
  else if n = 3 then some (s.fsmReg.setWidth 16)
  else if n = 4 then some s.len
  else if n = 5 then some s.erridx
  else if n = 6 then some (s.mmcnt.setWidth 16)
  else none

/-- The host reads a CSR (R17); LEN only while BUSY = 0 (R22). -/
def csrRead (n : Nat) (s : State) : Out :=
  match s.csrValue n with
  | none => .refused .csrNumber
  | some v => if n = 4 ∧ s.busy then .refused .hostAccessWhileBusy else .next { s with hrd := v }

/-- A coded unit is presented from outside. A command byte goes to the decoder (R18); an illegal one raises
IllegalCommand (30_encoding.md R63). Link requests and symbols are the engine's while a command runs (log 10). -/
def presentUnit (u : CodeUnit) (s : State) : Out :=
  match u with
  | .cmd8 c =>
    match decodeCmd8 c with
    | .ok i => exec i s
    | .error _ => .next (illegalCommand s)
  | .lkReq _ _ | .symbol _ => if s.busy then .refused .portBusy else runUnit u s

/-- The host writes a CSR (R17): CMD takes the low byte, LEN only while BUSY = 0 (R22), the others ignore it. -/
def csrWrite (n : Nat) (v : BitVec 16) (s : State) : Out :=
  if n = 0 then presentUnit (.cmd8 (v.setWidth 8)) s
  else if n = 4 then
    if s.busy then .refused .hostAccessWhileBusy else .next { s with len := v }
  else if n ≤ 6 then .next s
  else .refused .csrNumber

/-- The host may touch IMG at this offset now (20_memory.md R46, U7, U8). -/
def hostImg (a : Nat) (act : State → State) (s : State) : Out :=
  if s.busy then .refused .hostAccessWhileBusy
  else if a < Config.imgLen then .next (act s)
  else .refused .hostImgOffset

/-- The host reads IMG[a]. -/
def imgRead (a : Nat) (s : State) : Out :=
  hostImg a (fun t => { t with hrd := (t.imgByte a).setWidth 16 }) s

/-- The host writes IMG[a]. -/
def imgWrite (a : Nat) (v : Byte) (s : State) : Out := hostImg a (State.setImg a v) s

/-- Bytes arrive between two engine steps (40_link.md R90): only while LINKOPEN = 1 is there an RXQ. -/
def arriveBetween (bs : List Byte) (s : State) : State := if s.linkOpen then s.arrive bs else s

/-- One poll of STATUS (30_encoding.md R73): while BUSY = 1 the engine takes a step and the host polls on. -/
def pollStatus (s : State) : Out :=
  if s.busy then engineStep { s with inputs := .poll :: s.inputs }
  else .next { s with hrd := s.statusReg.setWidth 16 }

/-- One outside event, already taken from the queue. -/
def takeInput (i : Input) (s : State) : Out :=
  match i with
  | .unit u => presentUnit u s
  | .csrWrite n v => csrWrite n v s
  | .csrRead n => csrRead n s
  | .imgWrite a v => imgWrite a v s
  | .imgRead a => imgRead a s
  | .arrive bs => .next (arriveBetween bs s)
  | .turn => engineStep s
  | .poll => pollStatus s
  | .reset => .next s.doReset

/-- One step of the whole machine: the next outside event if one is queued, else the engine (00_scope.md R3). -/
def machineStep (s : State) : Out :=
  match s.inputs with
  | [] => engineStep s
  | i :: rest => takeInput i { s with inputs := rest }

/-- The unit that a table word stands for, as the fetch finds it; a word that decodes to nothing is a command
byte. -/
def unitOfWord (nbits w : Nat) : CodeUnit :=
  match firstDecoded (unitsOfTable nbits w) with
  | some (u, _) => u
  | none => .cmd8 (BitVec.ofNat 8 w)

/-- Present a unit next. A request or symbol can be presented only while no command runs, and one that needs the
link only while it is open (10_state.md R27; log 10). -/
def State.present (u : CodeUnit) (s : State) : State :=
  match u with
  | .cmd8 _ => { s with inputs := .unit u :: s.inputs }
  | .lkReq c _ =>
    { s with
      inputs := .unit u :: s.inputs, seq := .idle
      linkOpen := s.linkOpen || (c != 0x1#4 && c != 0x2#4) }
  | .symbol bytes =>
    { s with
      inputs := .unit u :: s.inputs, seq := .idle
      linkOpen := s.linkOpen || bytes == [Config.ackByte] }

end Sys2Proof.Machine
end

