-- ==== Sys2Proof/Machine/Step.lean ====
section
/-! DEFINITION. The step function and the fetch place. -/

namespace Sys2Proof.Machine

/-- One step of the machine. -/
def step (s : State) : Host.Outcome State Fault Refusal := machineStep s

/-- `s` with the instruction of a table word presented next, so that the very next step runs it (log 10). -/
def State.withFetchWord (s : State) (nbits w : Nat) : State := s.present (unitOfWord nbits w)

end Sys2Proof.Machine
end

