-- ==== Sys2Proof/Safety.lean ====
section
/-! DEFINITION. What claims are stated in: the observable state, the invariant of the reachable states, and the
bound on the steps a command takes. -/

namespace Sys2Proof.Safety

open Sys2Proof.Machine

/-- What can be observed at the end of a command (70_reset_and_hazards.md R218): the seven CSRs as the host reads
them, IMG where it is observable, and WIRE. LOG and RXQ are not in it. -/
structure Observation where
  cmd : BitVec 8
  status : BitVec 8
  err : BitVec 8
  fsmr : BitVec 8
  len : BitVec 16
  erridx : BitVec 16
  mmcnt : BitVec 8
  /-- The bytes of IMG in ascending order; `none` where IMG is not observable. -/
  img : Option (List Byte)
  wire : List WireEvent
deriving DecidableEq, Repr

/-- The bytes of IMG in ascending order. -/
def imageBytes (s : State) : List Byte := (List.range Config.imgLen).map s.imgByte

/-- The command byte is one of the checksum commands, VERIFY or CORRECT. -/
def isChecksumCommand (c : Byte) : Bool :=
  match decodeCmd8 c with
  | .ok i => i == .cmdVerify || i == .cmdCorrect
  | .error _ => false

/-- IMG is observable at the end of the command with byte c: "only if the command's ERR = 0, or for the checksum
commands always" (R218). -/
def imgObservable (c : Byte) (s : State) : Bool := s.err == .none || isChecksumCommand c

/-- The observation at the end of the command with byte c (R218); a state with BUSY = 1 is never final and has
none. -/
def observe (c : Byte) (s : State) : Option Observation :=
  if s.busy then none
  else some
    { cmd := 0
      status := s.statusReg
      err := s.errReg
      fsmr := s.fsmReg
      len := s.len
      erridx := s.erridx
      mmcnt := s.mmcnt
      img := if imgObservable c s then some (imageBytes s) else none
      wire := s.wire }

/-- The per-block result type of 43_send.md R159. -/
inductive BlockResult where
  | ok
  | recoverable
  | fatal (offset : BitVec 16)
deriving DecidableEq, Repr

/-- The transfer went on after block b: a later block has been entered, or FSM = COMPLETE after the last (R159;
log 33). -/
def wentOn (b : Block) (s : State) : Bool :=
  s.fsm == .complete || decide ((blockCode b).toNat < s.blk.toNat)

/-- The result of block b of the running or last SEND, read from the registers (R159); `none` for a block that
never ran, has not ended, or was cut off, and where the last transfer is no SEND. -/
def blockResult (b : Block) (s : State) : Option BlockResult :=
  if s.dir = .tx then
    if b = .three ∧ s.err = .echoMismatchFatal ∧ s.fsm = .aborted then some (.fatal s.erridx)
    else if s.recov b then some .recoverable
    else if wentOn b s then some .ok
    else none
  else none

/-- The top-level result of a SEND: "ERR after BUSY falls" (R159). -/
def sendResult (s : State) : Option ErrCode := if s.busy then none else some s.err

/-- FSM when the first primitive of a block is about to be issued (42_receive.md R129, 43_send.md R157). -/
def fsmBefore : Block → Fsm
  | .one => .flushed
  | .two => .segment1
  | .three => .segment2

/-- BLK when the first primitive of a block is about to be issued. -/
def blkBefore : Block → BitVec 2
  | .one => 0#2
  | .two => 1#2
  | .three => 2#2

/-- The bytes of blocks 1 and 2 whose echo has been compared when byte i of block b is about to be sent: only
these can be counted in MMCNT (10_state.md R24). -/
def comparedBefore (b : Block) (i : Nat) : Nat := if isFinal b then 18 else segBase b + i

/-- FSM in an idle engine, or while a command that is no transfer runs (10_state.md R14, R15). -/
def fsmAtRest (s : State) : Prop := s.fsm = .idle ∨ s.fsm = .complete ∨ s.fsm = .aborted

/-- A transfer in direction d is going on: the link is held and no error has been raised (R27, R32). -/
def transferring (d : Dir) (s : State) : Prop := s.dir = d ∧ s.linkOpen = true ∧ s.err = .none

/-- Block b of a transfer is in progress. -/
def insideBlock (d : Dir) (b : Block) (s : State) : Prop :=
  transferring d s ∧ s.fsm = segState b ∧ s.blk = blockCode b

/-- RXCNT and UNDERRUN agree (42_receive.md R123 to R125): UNDERRUN is set exactly when fewer than the `full`
bytes asked so far were stored. -/
def receivedUpTo (full : Nat) (s : State) : Prop :=
  s.rxcnt.toNat ≤ full ∧ (s.underrun = true ↔ s.rxcnt.toNat < full)

/-- The registers at a place of a SEND. -/
def sending (b : Block) (compared : Nat) (s : State) : Prop :=
  insideBlock .tx b s ∧ s.len.toNat = Config.imgLen ∧ s.mmcnt.toNat ≤ compared

/-- What holds of the registers at each place of the pseudocode. -/
def placeOk (s : State) : Prop :=
  match s.seq with
  | .idle => fsmAtRest s
  | .openLink => fsmAtRest s ∧ s.err = .none ∧ s.linkOpen = false
  | .closeLink => fsmAtRest s ∧ s.err = .none
  | .verifyPass | .correctPass => fsmAtRest s ∧ s.err = .none ∧ s.len.toNat = Config.imgLen
  | .rxFlushIn | .rxFlushOut =>
    transferring .rx s ∧ s.fsm = .idle ∧ s.blk = 0 ∧ s.underrun = false ∧ s.mmcnt = 0
  | .rxRead b =>
    transferring .rx s ∧ s.fsm = fsmBefore b ∧ s.blk = blkBefore b ∧ receivedUpTo (segBase b) s ∧
      s.mmcnt = 0
  | .rxSettle b | .rxAck b | .rxEcho b =>
    insideBlock .rx b s ∧ b ≠ .three ∧ receivedUpTo (segBase (nextBlock b)) s ∧ s.mmcnt = 0
  | .rxCorrect =>
    insideBlock .rx .three s ∧ s.rxcnt.toNat = Config.imgLen ∧ s.len = s.rxcnt ∧
      s.underrun = false ∧ s.mmcnt = 0
  | .txCorrect | .txFlushIn | .txFlushOut =>
    transferring .tx s ∧ s.fsm = .idle ∧ s.blk = 0 ∧ s.len.toNat = Config.imgLen ∧ s.mmcnt = 0
  | .txWrite b i =>
    i < segLen b ∧ transferring .tx s ∧ s.len.toNat = Config.imgLen ∧
      s.mmcnt.toNat ≤ comparedBefore b i ∧
      (s.fsm = segState b ∧ s.blk = blockCode b ∨
        i = 0 ∧ s.fsm = fsmBefore b ∧ s.blk = blkBefore b)
  | .txBreak b =>
    sending b (comparedBefore b s.idx.toNat) s ∧ b ≠ .three ∧ s.idx.toNat < segLen b
  | .txWaiting b => sending b (comparedBefore b s.idx.toNat) s ∧ s.idx.toNat + 1 < segLen b
  | .txEcho b n =>
    sending b (comparedBefore b s.idx.toNat) s ∧ s.idx.toNat < segLen b ∧ 1 ≤ n ∧
      (s.idx.toNat + 1 = segLen b → n = 1)
  | .txSettle b | .txAckWaiting b | .txAckRead b _ | .txAck b | .txAckEchoWaiting b
  | .txAckEchoRead b _ => sending b (segBase (nextBlock b)) s ∧ b ≠ .three
  | .completing =>
    (insideBlock .rx .three s ∨ insideBlock .tx .three s) ∧ s.len.toNat = Config.imgLen
  | .aborting =>
    s.dir ≠ .none ∧ s.linkOpen = true ∧ s.fsm = .aborted ∧
      (s.err = .linkUnavailable ∨ s.err = .lengthMismatch ∨ s.err = .echoMismatchFatal)

/-- The invariant of the reachable states: the image keeps its canonical form, MMCNT never exceeds 18
(10_state.md R24), RXCNT never exceeds the image (R13), and the registers fit the place. -/
structure Inv (s : State) : Prop where
  img_wf : Memory.wf s.img = true
  mmcnt_le : s.mmcnt.toNat ≤ 18
  rxcnt_le : s.rxcnt.toNat ≤ Config.imgLen
  place : placeOk s

/-- The image that a SEND transmits is consistent from the end of its CorrectPass on (20_memory.md R50,
43_send.md R142). -/
def sendsConsistent (s : State) : Prop :=
  match s.seq with
  | .txFlushIn | .txFlushOut | .txWrite _ _ | .txBreak _ | .txWaiting _ | .txEcho _ _ =>
    s.verifyPass = true
  | .txSettle _ | .txAckWaiting _ | .txAckRead _ _ | .txAck _ | .txAckEchoWaiting _
  | .txAckEchoRead _ _ => s.verifyPass = true
  | .completing => s.verifyPass = true
  | .idle | .openLink | .closeLink | .verifyPass | .correctPass | .txCorrect | .aborting => True
  | .rxFlushIn | .rxFlushOut | .rxRead _ | .rxSettle _ | .rxAck _ | .rxEcho _ | .rxCorrect => True

/-- The steps that the byte loop of block b may still take when byte i is about to be written, and all that
follows it: four a byte in blocks 1 and 2, three in block 3, six for an ACK exchange, one for LK.CLOSE
(43_send.md R156, 70_reset_and_hazards.md R216). -/
def sendStepsFrom (b : Block) (i : Nat) : Nat :=
  match b with
  | .three => 3 * (segLen .three - i) + 1
  | .two => 4 * (segLen .two - i) + 6 + (3 * segLen .three + 1)
  | .one => 4 * (segLen .one - i) + 6 + (4 * segLen .two + 6 + (3 * segLen .three + 1))

/-- The steps of the ACK exchange of block b that remain, and all that follows it. -/
def ackStepsFrom (b : Block) (left : Nat) : Nat := left + sendStepsFrom (nextBlock b) 0

/-- An upper bound on the engine steps until BUSY = 0, when every primitive returns (R216). -/
def stepsLeft (s : State) : Nat :=
  match s.seq with
  | .idle => 0
  | .openLink | .closeLink | .verifyPass | .correctPass | .completing | .aborting => 1
  | .rxFlushIn => 13
  | .rxFlushOut => 12
  | .rxRead .one => 11
  | .rxSettle .one => 10
  | .rxAck .one => 9
  | .rxEcho .one => 8
  | .rxRead .two => 7
  | .rxSettle _ => 6
  | .rxAck _ => 5
  | .rxEcho _ => 4
  | .rxRead .three => 3
  | .rxCorrect => 2
  | .txCorrect => 3 + sendStepsFrom .one 0
  | .txFlushIn => 2 + sendStepsFrom .one 0
  | .txFlushOut => 1 + sendStepsFrom .one 0
  | .txWrite b i => sendStepsFrom b i
  | .txBreak b => 3 + sendStepsFrom b (s.idx.toNat + 1)
  | .txWaiting b => 2 + sendStepsFrom b (s.idx.toNat + 1)
  | .txEcho b _ => 1 + sendStepsFrom b (s.idx.toNat + 1)
  | .txSettle b => ackStepsFrom b 6
  | .txAckWaiting b => ackStepsFrom b 5
  | .txAckRead b _ => ackStepsFrom b 4
  | .txAck b => ackStepsFrom b 3
  | .txAckEchoWaiting b => ackStepsFrom b 2
  | .txAckEchoRead b _ => ackStepsFrom b 1

/-- The device side lets every queued primitive return (R216's premise "provided LK.WRITE, LK.BREAK and LK.OPEN
return"). -/
def neverStalls (moves : List DevMove) : Prop := ∀ m ∈ moves, m.answer ≠ .stall

/-- Steps in a row, stopping at the first fault or refusal. -/
def runFor : Nat → State → Out
  | 0, s => .next s
  | k + 1, s => andThen (step s) (runFor k)

/-- The engine may step alone with the link open, and the device side's next move, whatever it supplies, lets the
primitive return (40_link.md R90, R91, 93_implementation_defined.md U6). -/
structure Returns (s : State) : Prop where
  inputs : s.inputs = []
  linkOpen : s.linkOpen = true
  notHeld : s.nextMove.answer ≠ .stall
  notFailing : s.nextMove.answer = .fail → s.cfg.linkFail = false

/-- The device side lets a primitive return and supplies these bytes (40_link.md R90). -/
def supplies (bs : List Byte) : DevMove := { arrive := bs, answer := .ok }

/-- The link primitives of one byte of block b (43_send.md R145): write, then the break in blocks 1 and 2, then
the echo read, opportunistic except for the last byte. -/
def primitivesOfByte (b : Block) (i : Nat) : Nat :=
  (if isFinal b then 2 else 3) + (if i + 1 = segLen b then 0 else 1)

/-- The moves of a device side that echoes byte `x`, written as byte i of block b: the echo comes at the
primitive after the write. -/
def faithfulByte (b : Block) (i : Nat) (x : Byte) : List DevMove :=
  supplies [] :: supplies [x] :: List.replicate (primitivesOfByte b i - 2) (supplies [])

/-- The moves of a device side that echoes every byte of block b. -/
def faithfulBlock (b : Block) (s : State) : List DevMove :=
  (List.range (segLen b)).flatMap fun i => faithfulByte b i (s.imgByte (segBase b + i))

/-- What block b, sent in full, puts on WIRE (43_send.md R156). -/
def blockWire (b : Block) (s : State) : List WireEvent :=
  (List.range (segLen b)).flatMap fun i =>
    .byte (s.imgByte (segBase b + i)) :: (if isFinal b then [] else [.brk .tBreak])

/-- The moves of a device side that acknowledges a block with `d` and echoes the engine's ACK as `e`
(43_send.md R153). -/
def acknowledges (d e : List Byte) : List DevMove :=
  [supplies [], supplies d, supplies [], supplies [], supplies e, supplies []]

/-- The moves of a device side at the primitives and Delays of a SEND of the image of `s`, when it echoes every
byte and acknowledges blocks 1 and 2 with one byte each. -/
def faithfulSend (s : State) (d₁ e₁ d₂ e₂ : List Byte) : List DevMove :=
  [supplies [], supplies []] ++
    (faithfulBlock .one s ++ (acknowledges d₁ e₁ ++
      (faithfulBlock .two s ++ (acknowledges d₂ e₂ ++ faithfulBlock .three s))))

/-- The places at which the next step may write IMG (20_memory.md R47). -/
def writesImg (p : SeqPos) : Bool :=
  match p with
  | .correctPass | .rxCorrect | .txCorrect | .rxRead _ => true
  | .idle | .openLink | .closeLink | .verifyPass | .completing | .aborting => false
  | .rxFlushIn | .rxFlushOut | .rxSettle _ | .rxAck _ | .rxEcho _ => false
  | .txFlushIn | .txFlushOut | .txWrite _ _ | .txBreak _ | .txWaiting _ | .txEcho _ _ => false
  | .txSettle _ | .txAckWaiting _ | .txAckRead _ _ | .txAck _ => false
  | .txAckEchoWaiting _ | .txAckEchoRead _ _ => false

/-- An offset of a checkbyte (41_checksum.md R101). -/
def isCheckbyte (a : Nat) : Bool := a == ckOff .one || a == ckOff .two || a == ckOff .three

/-- The changes of FSM that the transition tables allow (42_receive.md R129, 43_send.md R157). -/
def fsmMoves : List (Fsm × Fsm) :=
  [(.complete, .idle), (.aborted, .idle), (.idle, .flushed), (.flushed, .segment1),
   (.segment1, .segment2), (.segment2, .segment3), (.segment3, .complete), (.idle, .aborted),
   (.flushed, .aborted), (.segment1, .aborted), (.segment2, .aborted), (.segment3, .aborted)]

end Sys2Proof.Safety
end

