-- ==== Sys2Proof/Certificates/Slice0/Obligations.lean ====
section
/-! DEFINITION. The statements for the provers, from the numbered rules of spec/. Where one says that a step leaves
all else as it was, it follows 10_state.md R13 for ACC, TXB, ECHO, RXCNT and IDX ("each is written only by the
operations listed"); that they keep their values outside the command that wrote them, where U14 allows any, is the
model's choice (log 35). -/

open Sys2Proof Sys2Proof.Machine Sys2Proof.Safety

/-! ### Encoding and decoding -/

/-- 30_encoding.md R60 to R68: decoding what the encoder writes of a well-formed instruction gives it back, and
whatever decodes was written by the encoder; no bit of a unit is ignored. -/
def Obligations.DecodeAndEncodeAreInverse : Prop :=
  (∀ i : Instr, i.wf = true → decode (encode i) = .ok i) ∧
  (∀ (u : CodeUnit) (i : Instr), decode u = .ok i → encode i = u ∧ u.port = i.port)

/-- 30_encoding.md R61 to R63: a command is selected by equality of the whole byte; the other 250 values are
illegal. -/
def Obligations.SixCommandBytesAndNoOthers : Prop :=
  (∀ (c : Byte) (i : Instr), decode (.cmd8 c) = .ok i ↔
    (c, i) ∈ [(0x01#8, Instr.cmdOpen), (0x02#8, .cmdClose), (0x10#8, .cmdVerify),
      (0x11#8, .cmdCorrect), (0x20#8, .cmdRecv), (0x21#8, .cmdSend)]) ∧
  ((List.range 256).filter fun c =>
    decode (.cmd8 (BitVec.ofNat 8 c)) = .error .illegalCommand).length = 250

/-- The words of spec/opcode_table.json written out from R62, R64, R67 and R68. (How a word becomes a unit is the
model's choice, logs 11 and 12.) -/
def Obligations.TableWordsDecode : Prop :=
  decodeTableWord 8 0b00000001 = some .cmdOpen ∧ decodeTableWord 8 0b00000010 = some .cmdClose ∧
  decodeTableWord 8 0b00010000 = some .cmdVerify ∧ decodeTableWord 8 0b00010001 = some .cmdCorrect ∧
  decodeTableWord 8 0b00100000 = some .cmdRecv ∧ decodeTableWord 8 0b00100001 = some .cmdSend ∧
  decodeTableWord 4 0b0001 = some .lkOpen ∧ decodeTableWord 4 0b0010 = some .lkClose ∧
  decodeTableWord 4 0b0011 = some (.lkRead 0) ∧ decodeTableWord 4 0b0100 = some (.lkWrite [0x00#8]) ∧
  decodeTableWord 4 0b0101 = some (.lkBreak .tBreak) ∧ decodeTableWord 4 0b0110 = some .lkWaiting ∧
  decodeTableWord 4 0b0111 = some .lkFlushin ∧ decodeTableWord 4 0b1000 = some .lkFlushout ∧
  decodeTableWord 8 0b00000110 = some .ack ∧
  decodeTableWord 24 0b111111111111111100000110 = some .quirk

/-! ### Steps -/

/-- A step runs the decoded instruction: when a unit that decodes to a well-formed i is presented (to CMD at any
time, at the other ports while no command runs), the step is exec of i after the unit has been taken. (That a link
request or a wire symbol can be presented from outside is the model's choice, log 10.) -/
def Obligations.StepRunsThePresentedInstruction : Prop :=
  ∀ (s : State) (u : CodeUnit) (i : Instr) (rest : List Input),
    s.inputs = .unit u :: rest → decode u = .ok i → i.wf = true →
    (u.port = .cmd ∨ s.busy = false) →
    step s = exec i { s with inputs := rest }

/-- A step runs the decoded instruction, for the engine's own units (10_state.md R14): the lines before the
primitive, exec of the instruction, the lines after it (the model's reading of the pseudocode, log 1). -/
def Obligations.EngineStepRunsTheInstructionOfItsPlace : Prop :=
  ∀ (s : State) (u : CodeUnit) (i : Instr),
    s.inputs = [] → s.offsetsInside = true → s.enter.request = some u → decode u = .ok i →
    step s = andThen (exec i s.enter) (fun t => .next t.resume)

/-- The very next step after a table word has been presented runs the instruction that the decoder reads from
it (how it is presented is the model's choice, log 10). -/
def Obligations.FetchedWordIsRunNext : Prop :=
  ∀ (s : State) (nbits w : Nat) (i : Instr), decodeTableWord nbits w = some i →
    step (s.withFetchWord nbits w) = exec i { s.withFetchWord nbits w with inputs := s.inputs }

/-- 70_reset_and_hazards.md R201: an idle engine does nothing until a command byte is written. -/
def Obligations.IdleEngineDoesNothing : Prop :=
  ∀ s : State, s.inputs = [] → s.busy = false → step s = .next s

/-- 10_state.md R18: a command byte, legal or not, written while BUSY = 1 is dropped; no state changes but for
the taken event. -/
def Obligations.BusyDropsEveryCommandByte : Prop :=
  ∀ s : State, s.busy = true →
    (∀ i : Instr, i.port = .cmd → exec i s = .next s) ∧
    (∀ (c : Byte) (rest : List Input), s.inputs = .unit (.cmd8 c) :: rest →
      step s = .next { s with inputs := rest }) ∧
    (∀ (v : BitVec 16) (rest : List Input), s.inputs = .csrWrite 0 v :: rest →
      step s = .next { s with inputs := rest })

/-- 30_encoding.md R63, R77, 60_exceptions.md R177: an illegal byte taken while idle sets ERR = 5 and changes
nothing else. -/
def Obligations.IllegalCommandSetsErrOnly : Prop :=
  ∀ (s : State) (c : Byte) (rest : List Input), s.busy = false →
    c ∉ [0x01#8, 0x02#8, 0x10#8, 0x11#8, 0x20#8, 0x21#8] →
    s.inputs = .unit (.cmd8 c) :: rest →
    step s = .next { s with inputs := rest, err := .illegalCommand }

/-! ### OPEN, CLOSE, VERIFY, CORRECT -/

/-- 40_link.md R92, whole. With the link open, OPEN is rejected and the link stays open. Else it issues LK.OPEN
in the next step: on "available" LINKOPEN = 1 and ERR = 0, on fail LinkUnavailable with LINKOPEN = 0. -/
def Obligations.OpenClaimsTheLinkOrRaises : Prop :=
  ∀ s : State, s.busy = false → s.inputs = [] →
    (s.linkOpen = true →
      exec .cmdOpen s = .next { s with err := .linkUnavailable }) ∧
    (s.linkOpen = false → ∃ s₁, exec .cmdOpen s = .next s₁ ∧
      s₁ = { s with err := .none, seq := .openLink } ∧
      (s.nextMove.answer = .ok → step s₁ = .next
        { s.dropMove with
          err := .none, linkOpen := true, rxq := enqueue s.cfg.wMax [] s.nextMove.arrive, lkres := .done }) ∧
      (s.nextMove.answer = .fail → step s₁ = .next
        { s.dropMove with err := .linkUnavailable, lkres := .failed }))

/-- 40_link.md R93, whole: CLOSE ends with the link closed and ERR = 0, never raises, and leaves everything as it
was when the link is closed already. -/
def Obligations.CloseReleasesTheLinkAndIsIdempotent : Prop :=
  ∀ s : State, s.busy = false → s.inputs = [] → ∃ s₁ t,
    exec .cmdClose s = .next s₁ ∧ step s₁ = .next t ∧
    s₁ = { s with err := .none, seq := .closeLink } ∧
    (s.linkOpen = false → t = { s with err := .none, lkres := .done }) ∧
    (s.linkOpen = true → ∃ q, t =
      { s with err := .none, linkOpen := false, lkres := .done, rxq := q, draws := s.draws + 1 })

/-- 41_checksum.md R105: VERIFY with LEN = 16211 sets VOK to VerifyPass, raises ChecksumInvalid exactly when it is
false, and writes nothing but VOK, ERR and ACC (whose value is left open here); with any other LEN it is rejected
with VOK = 0. -/
def Obligations.VerifyReportsInVokAndErr : Prop :=
  ∀ s : State, s.busy = false → s.inputs = [] →
    (s.len.toNat ≠ 16211 →
      exec .cmdVerify s = .next { s with vok := false, err := .lengthMismatch }) ∧
    (s.len.toNat = 16211 → ∃ s₁, exec .cmdVerify s = .next s₁ ∧
      s₁ = { s with err := .none, seq := .verifyPass } ∧ ∃ a, step s₁ = .next
        { s with
          acc := a, vok := s.verifyPass
          err := if s.verifyPass then .none else .checksumInvalid })

/-- 41_checksum.md R106: CORRECT with LEN = 16211 runs CorrectPass, ends with ERR = 0 and does not write VOK; IMG
changes at the three checkbytes at most, and on a consistent image not at all; with any other LEN it is
rejected. (That ACC still holds the pass's sum when CORRECT has ended is the model's choice, log 35.) -/
def Obligations.CorrectRunsThePassOrRejects : Prop :=
  ∀ s : State, s.busy = false → s.inputs = [] →
    (s.len.toNat ≠ 16211 → exec .cmdCorrect s = .next { s with err := .lengthMismatch }) ∧
    (s.len.toNat = 16211 → ∃ s₁, exec .cmdCorrect s = .next s₁ ∧
      s₁ = { s with err := .none, seq := .correctPass } ∧
      step s₁ = .next
        { s with img := s.correctPass.img, acc := s.correctPass.acc, err := .none } ∧
      (∀ a, isCheckbyte a = false → s.correctPass.imgByte a = s.imgByte a) ∧
      (s.verifyPass = true → s.correctPass.img = s.img))

/-! ### The sum and the passes -/

/-- 41_checksum.md R100: Sum8(a, b) is the sum of the bytes as unsigned integers, modulo 256. -/
def Obligations.Sum8IsTheSumModulo256 : Prop :=
  ∀ (s : State) (a b : Nat),
    (s.sum8 a b).toNat = (((List.range' a (b + 1 - a)).map fun k => (s.imgByte k).toNat).sum) % 256

/-- 41_checksum.md R108 (a): after CorrectPass, VerifyPass is true. -/
def Obligations.VerifyHoldsAfterCorrect : Prop := ∀ s : State, s.correctPass.verifyPass = true

/-- 41_checksum.md R108 (b), 20_memory.md R47: CorrectPass changes at most the three checkbytes, and no register
but ACC. -/
def Obligations.CorrectChangesOnlyCheckbytes : Prop :=
  ∀ s : State, (∀ a, isCheckbyte a = false → s.correctPass.imgByte a = s.imgByte a) ∧
    s.correctPass = { s with img := s.correctPass.img, acc := s.correctPass.acc }

/-- 41_checksum.md R108 (c): a second CorrectPass changes nothing. -/
def Obligations.CorrectIsIdempotent : Prop := ∀ s : State, s.correctPass.correctPass = s.correctPass

/-- 41_checksum.md R108 (d): VerifyPass is true if and only if CorrectPass changes nothing. -/
def Obligations.VerifyIffCorrectChangesNothing : Prop :=
  ∀ s : State, s.verifyPass = true ↔ s.correctPass.img = s.img

/-- 41_checksum.md R108 (f): the checkbytes after CorrectPass are functions of the other bytes alone. -/
def Obligations.CheckbytesDependOnOtherBytesOnly : Prop :=
  ∀ s t : State, (∀ a, a < 16211 → isCheckbyte a = false → s.imgByte a = t.imgByte a) →
    ∀ a, a < 16211 → s.correctPass.imgByte a = t.correctPass.imgByte a

/-! ### RECV and SEND: acceptance and rejection -/

/-- 42_receive.md R121 with the dispatch of 30_encoding.md R77: RECV starts a session and, with the link closed,
is rejected with FSM = IDLE; otherwise its first primitive is LK.FLUSHIN. -/
def Obligations.RecvStartsASessionOrIsRejected : Prop :=
  ∀ s : State, s.busy = false →
    exec .cmdRecv s = .next
      { s with
        err := if s.linkOpen then .none else .linkUnavailable
        seq := if s.linkOpen then .rxFlushIn else .idle
        fsm := .idle, dir := .rx, recov1 := false, recov2 := false, underrun := false, mmcnt := 0
        erridx := 0, blk := 0 }

/-- 43_send.md R141 with the dispatch of 30_encoding.md R77: SEND checks the length first, then the link; both
failures are rejections without any link primitive; otherwise its first step is the correction. -/
def Obligations.SendChecksLengthThenLink : Prop :=
  ∀ s : State, s.busy = false →
    exec .cmdSend s = .next
      { s with
        err := if s.len.toNat ≠ 16211 then .lengthMismatch
          else if s.linkOpen then .none else .linkUnavailable
        seq := if s.len.toNat = 16211 ∧ s.linkOpen = true then .txCorrect else .idle
        fsm := .idle, dir := .tx, recov1 := false, recov2 := false, underrun := false, mmcnt := 0
        erridx := 0, blk := 0 }

/-! ### Link primitives -/

/-- 40_link.md R81: LK.OPEN on "available" sets LINKOPEN and lets RXQ hold what the device side put there; on
fail nothing but the answer changes. (R81 speaks of a closed link; that its pseudocode holds as it stands on an open
one too, where only a request from outside can present LK.OPEN, is the model's reading, log 30.) -/
def Obligations.LkOpenTakesTheDeviceSidesAnswer : Prop :=
  ∀ s : State,
    (s.nextMove.answer = .ok → exec .lkOpen s = .next
      { s.dropMove with
        linkOpen := true, rxq := enqueue s.cfg.wMax [] s.nextMove.arrive, lkres := .done }) ∧
    (s.nextMove.answer = .fail → exec .lkOpen s = .next { s.dropMove with lkres := .failed })

/-- 40_link.md R82: LK.CLOSE releases the link and leaves RXQ undefined, whatever that free value is; closing a
closed link does nothing. -/
def Obligations.LkCloseReleasesAndIsIdempotent : Prop :=
  ∀ s : State,
    (s.linkOpen = false → exec .lkClose s = .next { s with lkres := .done }) ∧
    (s.linkOpen = true → ∃ q, exec .lkClose s = .next
      { s with linkOpen := false, rxq := q, draws := s.draws + 1, lkres := .done })

/-- 40_link.md R83: LK.READ(n) returns and removes the first min(n, |RXQ|) bytes, in arrival order, of what is
there after the device side has supplied what it will; the result is short exactly when fewer than n came. -/
def Obligations.LkReadTakesTheFirstBytes : Prop :=
  ∀ (s : State) (n : Nat), s.linkOpen = true →
    (s.nextMove.answer = .fail → s.cfg.linkFail = false) →
    ∃ r q, exec (.lkRead n) s = .next { s.dropMove with rxq := q, lkres := .bytes r } ∧
      r ++ q = enqueue s.cfg.wMax s.rxq s.nextMove.arrive ∧
      r.length = min n (enqueue s.cfg.wMax s.rxq s.nextMove.arrive).length ∧
      (r.length < n → q = [])

/-- 40_link.md R84, R85, 30_encoding.md R67: LK.WRITE(s) appends the bytes of s, in order, to WIRE; ACK is
LK.WRITE([0x06]); LK.BREAK(d) appends BREAK(d). None takes anything from RXQ. -/
def Obligations.LkWriteAckAndBreakAppendToWire : Prop :=
  ∀ s : State, s.linkOpen = true → s.nextMove.answer ≠ .stall →
    (s.nextMove.answer = .fail → s.cfg.linkFail = false) →
    (∀ bs : List Byte, exec (.lkWrite bs) s = .next
      { s.dropMove with
        rxq := enqueue s.cfg.wMax s.rxq s.nextMove.arrive
        wire := s.wire ++ bs.map .byte, lkres := .done }) ∧
    exec .ack s = .next
      { s.dropMove with
        rxq := enqueue s.cfg.wMax s.rxq s.nextMove.arrive
        wire := s.wire ++ [.byte 0x06#8], lkres := .done } ∧
    (∀ d : Duration, exec (.lkBreak d) s = .next
      { s.dropMove with
        rxq := enqueue s.cfg.wMax s.rxq s.nextMove.arrive
        wire := s.wire ++ [.brk d], lkres := .done })

/-- 40_link.md R86 to R88, 20_memory.md R51: LK.WAITING answers |RXQ| and removes nothing; LK.FLUSHIN empties RXQ;
LK.FLUSHOUT changes nothing but the device side's own move. -/
def Obligations.LkWaitingCountsAndFlushesDiscardInput : Prop :=
  ∀ s : State, s.linkOpen = true → (s.nextMove.answer = .fail → s.cfg.linkFail = false) →
    exec .lkWaiting s = .next
      { s.dropMove with
        rxq := enqueue s.cfg.wMax s.rxq s.nextMove.arrive
        lkres := .count (enqueue s.cfg.wMax s.rxq s.nextMove.arrive).length } ∧
    exec .lkFlushin s = .next { s.dropMove with rxq := [], lkres := .done } ∧
    exec .lkFlushout s = .next
      { s.dropMove with rxq := enqueue s.cfg.wMax s.rxq s.nextMove.arrive, lkres := .done }

/-- 40_link.md R90, R27, R95: between two steps, while LINKOPEN = 1, the device side appends bytes at the tail of
RXQ, removes and reorders nothing and changes nothing else; with the link closed there is no RXQ to append to; the
two settle delays admit the same and nothing more. (An append that a finite W_MAX has no room for is not made: U4
and log 16.) -/
def Obligations.DeviceSideOnlyAppendsToTheQueue : Prop :=
  (∀ (s : State) (bs : List Byte) (rest : List Input), s.inputs = .arrive bs :: rest →
    (s.linkOpen = true → (∀ w, s.cfg.wMax = some w → s.rxq.length + bs.length ≤ w) →
      step s = .next { s with inputs := rest, rxq := s.rxq ++ bs }) ∧
    (s.linkOpen = true → (∀ w, s.cfg.wMax = some w → w < s.rxq.length + bs.length) → s.cfg.wMax ≠ none →
      step s = .next { s with inputs := rest }) ∧
    (s.linkOpen = false → step s = .next { s with inputs := rest })) ∧
  (∀ (s : State) (b : Block), s.inputs = [] →
    (s.seq = .rxSettle b → step s = .next
      { s.dropMove with rxq := enqueue s.cfg.wMax s.rxq s.nextMove.arrive, seq := .rxAck b }) ∧
    (s.seq = .txSettle b → step s = .next
      { s.dropMove with rxq := enqueue s.cfg.wMax s.rxq s.nextMove.arrive, seq := .txAckWaiting b }))

/-- 40_link.md R91, 93 U6: a primitive that the device side makes fail has no effect of its own, and neither has a
write or break that has not returned. (That it has put nothing on WIRE is the model's choice, logs 7 and 22, and that
a failed read or flush has taken nothing out of RXQ is log 36.) -/
def Obligations.FailedPrimitiveHasNoEffect : Prop :=
  ∀ (s : State) (n : Nat) (bs : List Byte) (d : Duration), s.linkOpen = true →
    (s.nextMove.answer = .fail → s.cfg.linkFail = true →
      ∀ i ∈ [Instr.lkRead n, .lkWrite bs, .lkBreak d, .lkWaiting, .lkFlushin, .lkFlushout, .ack],
        exec i s = .next
          { s.dropMove with
            rxq := enqueue s.cfg.wMax s.rxq s.nextMove.arrive, lkres := .failed }) ∧
    (s.nextMove.answer = .stall →
      ∀ i ∈ [Instr.lkWrite bs, .lkBreak d, .ack],
        exec i s = .next
          { s.dropMove with
            rxq := enqueue s.cfg.wMax s.rxq s.nextMove.arrive, lkres := .stalled })

/-- 10_state.md R27: while LINKOPEN = 0 no primitive but LK.OPEN and LK.CLOSE has a meaning (the refusal is the
model's choice, log 8). -/
def Obligations.ClosedLinkRefusesPrimitives : Prop :=
  ∀ (s : State) (n : Nat) (bs : List Byte) (d : Duration), s.linkOpen = false →
    ∀ i ∈ [Instr.lkRead n, .lkWrite bs, .lkBreak d, .lkWaiting, .lkFlushin, .lkFlushout, .ack],
      exec i s = .refused .linkNotOpen

/-! ### The quirk -/

/-- 43_send.md R151, 30_encoding.md R68: the quirk pattern as the echo of 0xFF before the end of a non-final
block sets RECOV[b], logs QUIRK, ends the byte loop and goes on to the ACK exchange; ERR and MMCNT stay. (QUIRK as an
instruction, the decision on an outstanding echo read of at least three bytes that takes no byte from RXQ, is the
model's reading, log 14: in a run the echo read has removed the bytes, R83 and R148.) -/
def Obligations.QuirkEndsTheBlockAsRecoverable : Prop :=
  ∀ (s : State) (b : Block) (n : Nat), s.seq = .txEcho b n → 3 ≤ n → b ≠ .three → s.txb = 0xFF#8 →
    exec .quirk s = .next
      { s with
        echo := [0xFF#8, 0xFF#8, 0x06#8]
        recov1 := s.recov1 || b == .one, recov2 := s.recov2 || b == .two
        log := s.log ++ [.quirk b s.idx.toNat], seq := .txSettle b }

/-- 43_send.md R150, R152: the same pattern in the final block is fatal; for another sent byte in a non-final
block it is a logged mismatch. (QUIRK as an instruction, and that it takes no byte from RXQ and so leaves all else as
it was, is the model's reading, log 14: in a run the echo read has removed the bytes, R83 and R148.) -/
def Obligations.QuirkPatternElsewhereIsAMismatch : Prop :=
  ∀ (s : State) (b : Block) (n : Nat), s.seq = .txEcho b n → 3 ≤ n →
    (b = .three → exec .quirk s = .next
      { s with
        echo := [0xFF#8, 0xFF#8, 0x06#8], erridx := s.idx.setWidth 16
        log := s.log ++ [.fatal .three s.idx.toNat s.txb [0xFF#8, 0xFF#8, 0x06#8]]
        err := .echoMismatchFatal, fsm := .aborted, seq := .aborting }) ∧
    (b ≠ .three → s.txb ≠ 0xFF#8 → exec .quirk s = .next
      { s with
        echo := [0xFF#8, 0xFF#8, 0x06#8], mmcnt := s.mmcnt + 1
        log := s.log ++ [.mismatch b s.idx.toNat s.txb [0xFF#8, 0xFF#8, 0x06#8]]
        seq := if s.idx.toNat + 1 < segLen b then .txWrite b (s.idx.toNat + 1) else .txSettle b })

/-- 30_encoding.md R68: the pattern is the echo of a sent byte; where no echo read that can return it is
outstanding, it has no effect (the model's choice, log 14). -/
def Obligations.QuirkPatternOutsideAnEchoReadDoesNothing : Prop :=
  ∀ s : State, (∀ b n, s.seq = .txEcho b n → n < 3) → exec .quirk s = .next s

/-! ### The host's side -/

/-- 20_memory.md R46: the host reads and writes any image byte while BUSY = 0; an access while BUSY = 1 or above
0x3F52 is refused; a write changes that byte and no other. -/
def Obligations.HostImageAccess : Prop :=
  ∀ (s : State) (a : Nat) (v : Byte) (rest : List Input),
    (s.inputs = .imgRead a :: rest →
      (s.busy = true → step s = .refused .hostAccessWhileBusy) ∧
      (s.busy = false → 0x3F52 < a → step s = .refused .hostImgOffset) ∧
      (s.busy = false → a ≤ 0x3F52 →
        step s = .next { s with inputs := rest, hrd := (s.imgByte a).setWidth 16 })) ∧
    (s.inputs = .imgWrite a v :: rest →
      (s.busy = true → step s = .refused .hostAccessWhileBusy) ∧
      (s.busy = false → 0x3F52 < a → step s = .refused .hostImgOffset) ∧
      (s.busy = false → a ≤ 0x3F52 → ∃ t, step s = .next t ∧
        t = { s with inputs := rest, img := t.img } ∧ t.imgByte a = v ∧
        ∀ a', a' ≠ a → t.imgByte a' = s.imgByte a'))

/-- 10_state.md R17 to R24: what each CSR reads as, LEN only while BUSY = 0, numbers above 6 refused; reads change
nothing but what is returned to the host. 30_encoding.md R73, 60_exceptions.md R179: a host that polls STATUS until
BUSY = 0 changes nothing while BUSY = 1: the step is the step the engine takes with nothing queued, and the poll stays
queued; with BUSY = 0 it returns STATUS. (That a poll, or a host that waits for one step, is an event of this form is
the model's choice, log 20.) -/
def Obligations.HostReadsCsrsAndPolls : Prop :=
  (∀ (s : State) (n : Nat) (rest : List Input), s.inputs = .csrRead n :: rest →
    (n = 0 → step s = .next { s with inputs := rest, hrd := 0 }) ∧
    (n = 1 → step s = .next { s with inputs := rest, hrd := s.statusReg.setWidth 16 }) ∧
    (n = 2 → step s = .next { s with inputs := rest, hrd := s.errReg.setWidth 16 }) ∧
    (n = 3 → step s = .next { s with inputs := rest, hrd := s.fsmReg.setWidth 16 }) ∧
    (n = 4 → s.busy = false → step s = .next { s with inputs := rest, hrd := s.len }) ∧
    (n = 4 → s.busy = true → step s = .refused .hostAccessWhileBusy) ∧
    (n = 5 → step s = .next { s with inputs := rest, hrd := s.erridx }) ∧
    (n = 6 → step s = .next { s with inputs := rest, hrd := s.mmcnt.setWidth 16 }) ∧
    (6 < n → step s = .refused .csrNumber)) ∧
  (∀ (s : State) (rest : List Input), s.inputs = .poll :: rest →
    (s.busy = true → step s =
      andThen (step { s with inputs := [] }) (fun t => .next { t with inputs := .poll :: rest })) ∧
    (s.busy = false → step s = .next { s with inputs := rest, hrd := s.statusReg.setWidth 16 })) ∧
  (∀ (s : State) (rest : List Input), s.inputs = .turn :: rest →
    step s = andThen (step { s with inputs := [] }) (fun t => .next { t with inputs := rest }))

/-- 10_state.md R17, R18, R22: the host writes LEN only while BUSY = 0; the read-only registers ignore a write;
numbers above 6 are refused; a write of CMD presents the low byte to the decoder (that a 16-bit write presents its
low byte is the model's choice, log 32: CMD is 8 bits wide and is accessed at its own width). -/
def Obligations.HostWritesCsrs : Prop :=
  ∀ (s : State) (n : Nat) (v : BitVec 16) (rest : List Input), s.inputs = .csrWrite n v :: rest →
    (n = 0 → step s = step { s with inputs := .unit (.cmd8 (v.setWidth 8)) :: rest }) ∧
    (n = 4 → s.busy = false → step s = .next { s with inputs := rest, len := v }) ∧
    (n = 4 → s.busy = true → step s = .refused .hostAccessWhileBusy) ∧
    (n ∈ [1, 2, 3, 5, 6] → step s = .next { s with inputs := rest }) ∧
    (6 < n → step s = .refused .csrNumber)

/-- 10_state.md R15, R16, R19 to R21, 60_exceptions.md R171, 30_encoding.md R72: the bits of STATUS, the codes in
ERR and FSMR; reserved bits read as 0. -/
def Obligations.StatusRegistersReadTheirFields : Prop :=
  ∀ s : State,
    (∀ k : Nat, s.statusReg.getLsbD k =
      (if k = 0 then s.busy else if k = 1 then s.linkOpen else if k = 2 then s.vok
       else if k = 3 then s.recov1 else if k = 4 then s.recov2 else if k = 5 then s.underrun
       else false)) ∧
    s.errReg.toNat = (match s.err with
      | .none => 0 | .linkUnavailable => 1 | .lengthMismatch => 2 | .echoMismatchFatal => 3
      | .checksumInvalid => 4 | .illegalCommand => 5) ∧
    s.fsmReg.toNat = (match s.fsm with
      | .idle => 0 | .flushed => 1 | .segment1 => 2 | .segment2 => 3 | .segment3 => 4
      | .complete => 5 | .aborted => 6) + 8 * (match s.dir with | .none => 0 | .rx => 1 | .tx => 2)

/-- 10_state.md R31, 70_reset_and_hazards.md R200, R201: the reset input, in any state, puts every piece of state
that the spec gives a reset value at that value and stops any command. -/
def Obligations.ResetInputRestoresResetValues : Prop :=
  ∀ (s : State) (rest : List Input), s.inputs = .reset :: rest → ∃ t, step s = .next t ∧
    t.len = 0 ∧ t.blk = 0 ∧ t.fsm = .idle ∧ t.dir = .none ∧ t.statusReg = 0x00#8 ∧ t.err = .none ∧
    t.erridx = 0 ∧ t.mmcnt = 0 ∧ t.linkOpen = false ∧ t.wire = [] ∧ t.log = [] ∧ t.seq = .idle ∧
    t.inputs = rest

/-! ### Errors -/

/-- 60_exceptions.md R181: an abort sets ERR and FSM = ABORTED, closes the link and clears BUSY; everything else
keeps the value it had at the raise, and no byte is written. -/
def Obligations.AbortKeepsEverythingElse : Prop :=
  ∀ (s : State) (e : ErrCode), s.seq.inTransfer = true → s.linkOpen = true → s.inputs = [] →
    ∃ t, step (s.raiseError e) = .next t ∧ t.busy = false ∧
      ∃ q, t = { s with
        err := e, fsm := .aborted, seq := .idle, linkOpen := false, rxq := q, lkres := .done
        draws := s.draws + 1 }

/-- 60_exceptions.md R182: a rejection sets ERR and clears BUSY; nothing else changes and the link stays. -/
def Obligations.RejectionSetsErrOnly : Prop :=
  ∀ (s : State) (e : ErrCode), s.seq.inTransfer = false →
    s.raiseError e = { s with err := e, seq := .idle } ∧ (s.raiseError e).busy = false

/-- 40_link.md R91, 60_exceptions.md R181: in a transfer, a link failure at any primitive but LK.CLOSE raises
LinkUnavailable as an abort; IMG, LEN, RXCNT, ERRIDX, MMCNT, RECOV, UNDERRUN, DIR, VOK and LOG keep the values they
had, RXQ gains only what the device side's own move brings, and the link is still to be closed. (That a failed write
has put nothing on WIRE is the model's choice, log 22, and that a failed read has taken nothing out of RXQ is
log 36.) -/
def Obligations.LinkFailureAbortsTheTransfer : Prop :=
  ∀ (s : State) (u : CodeUnit), Inv s → s.inputs = [] → s.seq.inTransfer = true →
    s.enter.request = some u → u ≠ .lkReq 0x2#4 .none →
    s.cfg.linkFail = true → s.nextMove.answer = .fail →
    ∃ t, step s = .next t ∧ t.err = .linkUnavailable ∧ t.fsm = .aborted ∧ t.seq = .aborting ∧
      t.wire = s.wire ∧ t.img = s.img ∧ t.epoch = s.epoch ∧ t.log = s.log ∧ t.len = s.len ∧
      t.rxcnt = s.rxcnt ∧ t.erridx = s.erridx ∧ t.mmcnt = s.mmcnt ∧ t.recov1 = s.recov1 ∧
      t.recov2 = s.recov2 ∧ t.underrun = s.underrun ∧ t.dir = s.dir ∧ t.vok = s.vok ∧ t.acc = s.acc ∧
      t.echo = s.echo ∧ t.linkOpen = true ∧
      t.rxq = enqueue s.cfg.wMax s.rxq s.nextMove.arrive ∧ t.cfg = s.cfg ∧ t.hrd = s.hrd ∧ t.inputs = []

/-- 93_implementation_defined.md U6: a write, a break or an LK.OPEN that has not returned holds the engine at its
place, with nothing on WIRE (the form is the model's choice, logs 7 and 22). -/
def Obligations.UnreturnedPrimitiveHoldsTheEngine : Prop :=
  ∀ s : State, Inv s → s.inputs = [] → s.nextMove.answer = .stall →
    (s.seq = .openLink ∨ (∃ b i, s.seq = .txWrite b i) ∨ (∃ b, s.seq = .txBreak b) ∨
      (∃ b, s.seq = .rxAck b) ∨ ∃ b, s.seq = .txAck b) →
    ∃ t, step s = .next t ∧ t.seq = s.seq ∧ t.busy = true ∧ t.lkres = .stalled ∧ t.wire = s.wire ∧
      t.log = s.log ∧ t.img = s.img ∧ t.err = s.err ∧ t.mmcnt = s.mmcnt ∧ t.linkOpen = s.linkOpen

/-! ### RECV -/

/-- 42_receive.md R123, R124, R125, 40_link.md R83: the step at a segment read, whole, for every move of the device
side that does not fail. `q` is RXQ with what that move brought, `r` what the read returned: it is removed, bytes
beyond SEGLEN[b] stay in RXQ, and it is stored in arrival order from offset RXCNT on and nowhere else, counted, and
flagged and logged when short. After segments 1 and 2 the settle delay follows, after segment 3 the length check.
Every field that is not named keeps its value. -/
def Obligations.SegmentReadStoresInArrivalOrder : Prop :=
  ∀ (s : State) (b : Block) (q r : List Byte), s.seq = .rxRead b → s.inputs = [] → s.linkOpen = true →
    s.rxcnt.toNat ≤ segBase b → (s.nextMove.answer = .fail → s.cfg.linkFail = false) →
    q = enqueue s.cfg.wMax s.rxq s.nextMove.arrive → r = q.take (segLen b) →
    ∃ t, step s = .next t ∧
      t.rxcnt.toNat = s.rxcnt.toNat + r.length ∧
      (∀ (k : Nat) (h : k < r.length), t.imgByte (s.rxcnt.toNat + k) = r[k]) ∧
      (∀ a, a < s.rxcnt.toNat ∨ s.rxcnt.toNat + r.length ≤ a → t.imgByte a = s.imgByte a) ∧
      t = { s.dropMove with
        img := t.img, rxcnt := t.rxcnt
        rxq := q.drop (segLen b), lkres := .bytes r, blk := blockCode b
        underrun := s.underrun || decide (r.length < segLen b)
        log := s.log ++ (if r.length < segLen b then [.underrun b r.length (segLen b)] else [])
        len := if b = .three then t.rxcnt else s.len
        fsm := if b = .three ∧ t.rxcnt.toNat ≠ 16211 then .aborted else segState b
        err := if b = .three ∧ t.rxcnt.toNat ≠ 16211 then .lengthMismatch else s.err
        seq := if b ≠ .three then .rxSettle b
          else if t.rxcnt.toNat = 16211 then .rxCorrect else .aborting }

/-- 42_receive.md R125 `[derived]`: in a reachable RECV the length check fails exactly when STATUS.UNDERRUN = 1. -/
def Obligations.LengthMismatchExactlyOnUnderrun : Prop :=
  ∀ s : State, Inv s → s.inputs = [] → s.seq = .rxRead .three →
    (s.nextMove.answer = .fail → s.cfg.linkFail = false) →
    ∃ t, step s = .next t ∧ (t.underrun = true ↔ t.err = .lengthMismatch) ∧
      (t.underrun = false ↔ t.seq = .rxCorrect)

/-- 42_receive.md R127, 70_reset_and_hazards.md R218: a RECV whose device side supplies 10, 8 and 16193 bytes and
one echo byte after each ACK completes: ERR = 0, LEN = 16211, WIRE gains two ACKs, IMG is the concatenation with
consistent checkbytes and is observable, the link is closed. -/
def Obligations.CleanRecvDeliversTheCorrectedImage : Prop :=
  ∀ (s : State) (d₁ d₂ d₃ e₁ e₂ : List Byte) (rest : List DevMove),
    s.busy = false → s.inputs = [] → s.linkOpen = true → s.cfg.wMax = none →
    d₁.length = 10 → d₂.length = 8 → d₃.length = 16193 → e₁.length = 1 → e₂.length = 1 →
    s.dev = [supplies [], supplies [], supplies d₁, supplies [], supplies [], supplies e₁,
      supplies d₂, supplies [], supplies [], supplies e₂, supplies d₃] ++ rest →
    ∃ s₁ t, exec .cmdRecv s = .next s₁ ∧ runFor 13 s₁ = .next t ∧
      t.busy = false ∧ t.err = .none ∧ t.fsm = .complete ∧ t.dir = .rx ∧ t.linkOpen = false ∧
      t.len.toNat = 16211 ∧ t.underrun = false ∧ t.recov1 = false ∧ t.recov2 = false ∧ t.mmcnt = 0 ∧
      t.erridx = 0 ∧ t.vok = s.vok ∧
      t.wire = s.wire ++ [.byte 0x06#8, .byte 0x06#8] ∧
      t.log = s.log ++ [.ackEcho .rx .one e₁, .ackEcho .rx .two e₂] ∧
      t.verifyPass = true ∧ (observe 0x20#8 t).map (·.img) = some (some (imageBytes t)) ∧
      (∀ (a : Nat) (h : a < (d₁ ++ d₂ ++ d₃).length), isCheckbyte a = false →
        t.imgByte a = (d₁ ++ d₂ ++ d₃)[a])

/-! ### SEND -/

/-- 43_send.md R148 to R152, 40_link.md R89: the size of the echo read and the decision on the echo of byte IDX of
block b. Before the last byte LK.WAITING sizes the read, max(|RXQ|, 1), with the device side's move counted; the
read returns and removes the first n bytes of RXQ; each case of the decision changes what it names and nothing
else. (The read of size 1 at the last byte is in TransferStepsForEveryDevice.) -/
def Obligations.EchoDecidesTheNextByte : Prop :=
  ∀ (s : State) (b : Block) (q : List Byte), s.inputs = [] → s.linkOpen = true →
    (s.nextMove.answer = .fail → s.cfg.linkFail = false) →
    q = enqueue s.cfg.wMax s.rxq s.nextMove.arrive →
    (s.seq = .txWaiting b → step s = .next
      { s.dropMove with rxq := q, lkres := .count q.length, seq := .txEcho b (max q.length 1) }) ∧
    (∀ (n : Nat) (e : List Byte) (r : State), s.seq = .txEcho b n → e = q.take n →
      r = { s.dropMove with rxq := q.drop n, lkres := .bytes e, echo := e } →
      (e = [s.txb] → step s = .next
        { r with
          seq := if s.idx.toNat + 1 < segLen b then .txWrite b (s.idx.toNat + 1)
            else if b = .three then .completing else .txSettle b }) ∧
      (e ≠ [s.txb] → b = .three → step s = .next
        { r with
          erridx := s.idx.setWidth 16, log := s.log ++ [.fatal b s.idx.toNat s.txb e]
          err := .echoMismatchFatal, fsm := .aborted, seq := .aborting }) ∧
      (b ≠ .three → s.txb = 0xFF#8 → e = [0xFF#8, 0xFF#8, 0x06#8] → step s = .next
        { r with
          recov1 := s.recov1 || b == .one, recov2 := s.recov2 || b == .two
          log := s.log ++ [.quirk b s.idx.toNat], seq := .txSettle b }) ∧
      (b ≠ .three → e ≠ [s.txb] → ¬(s.txb = 0xFF#8 ∧ e = [0xFF#8, 0xFF#8, 0x06#8]) → step s = .next
        { r with
          mmcnt := s.mmcnt + 1, log := s.log ++ [.mismatch b s.idx.toNat s.txb e]
          seq := if s.idx.toNat + 1 < segLen b then .txWrite b (s.idx.toNat + 1) else .txSettle b }))

/-- 43_send.md R143, R145 to R148, R153, R155, 42_receive.md R122, R123, R126: the other steps of a transfer, place
by place, for every move of the device side that lets the primitive return. `q` is RXQ with what that move brought,
`r` the state with it. Byte i of block b sets IDX and TXB = IMG[SEGBASE[b] + i] and puts exactly that byte on WIRE;
one break follows it in blocks 1 and 2 and none in block 3; then comes LK.READ(1) at the last byte of the block and
LK.WAITING before it. -/
def Obligations.TransferStepsForEveryDevice : Prop :=
  ∀ (s r : State) (q : List Byte), Returns s → q = enqueue s.cfg.wMax s.rxq s.nextMove.arrive →
    r = { s.dropMove with rxq := q } →
    (s.seq = .rxFlushIn → step s = .next { r with rxq := [], lkres := .done, seq := .rxFlushOut }) ∧
    (s.seq = .rxFlushOut → step s = .next
      { r with lkres := .done, fsm := .flushed, rxcnt := 0, seq := .rxRead .one }) ∧
    (∀ b, s.seq = .rxAck b → step s = .next
      { r with wire := s.wire ++ [.byte 0x06#8], lkres := .done, seq := .rxEcho b }) ∧
    (∀ b, s.seq = .rxEcho b → step s = .next
      { r with
        rxq := q.drop 1, lkres := .bytes (q.take 1), log := s.log ++ [.ackEcho .rx b (q.take 1)]
        seq := .rxRead (nextBlock b) }) ∧
    (s.seq = .rxCorrect → step s = .next { s.correctPass with seq := .completing }) ∧
    (s.seq = .txCorrect → step s = .next { s.correctPass with seq := .txFlushIn }) ∧
    (s.seq = .txFlushIn → step s = .next { r with rxq := [], lkres := .done, seq := .txFlushOut }) ∧
    (s.seq = .txFlushOut → step s = .next
      { r with lkres := .done, fsm := .flushed, seq := .txWrite .one 0 }) ∧
    (∀ b i, s.seq = .txWrite b i → i < segLen b → step s = .next
      { r with
        fsm := if i = 0 then segState b else s.fsm, blk := if i = 0 then blockCode b else s.blk
        idx := BitVec.ofNat 14 i, txb := s.imgByte (segBase b + i)
        wire := s.wire ++ [.byte (s.imgByte (segBase b + i))], lkres := .done
        seq := if b ≠ .three then .txBreak b else if i + 1 = segLen b then .txEcho b 1 else .txWaiting b }) ∧
    (∀ b, s.seq = .txBreak b → step s = .next
      { r with
        wire := s.wire ++ [.brk .tBreak], lkres := .done
        seq := if s.idx.toNat + 1 = segLen b then .txEcho b 1 else .txWaiting b }) ∧
    (∀ b, s.seq = .txAckWaiting b → step s = .next
      { r with lkres := .count q.length, seq := .txAckRead b (max q.length s.cfg.ackReadMin.val) }) ∧
    (∀ b n, s.seq = .txAckRead b n → step s = .next
      { r with
        rxq := q.drop n, lkres := .bytes (q.take n), log := s.log ++ [.devAck b (q.take n)]
        seq := .txAck b }) ∧
    (∀ b, s.seq = .txAck b → step s = .next
      { r with wire := s.wire ++ [.byte 0x06#8], lkres := .done, seq := .txAckEchoWaiting b }) ∧
    (∀ b, s.seq = .txAckEchoWaiting b → step s = .next
      { r with lkres := .count q.length, seq := .txAckEchoRead b (max q.length s.cfg.ackReadMin.val) }) ∧
    (∀ b n, s.seq = .txAckEchoRead b n → step s = .next
      { r with
        rxq := q.drop n, lkres := .bytes (q.take n), log := s.log ++ [.ackEcho .tx b (q.take n)]
        seq := .txWrite (nextBlock b) 0 }) ∧
    (s.seq = .completing → ∃ x, step s = .next
      { s with
        fsm := .complete, seq := .idle, linkOpen := false, rxq := x, draws := s.draws + 1, lkres := .done })

/-- 43_send.md R150: a mismatch in the final block ends SEND within two steps with ERR = 3, ERRIDX = the index,
FATAL logged, FSM = ABORTED, the link closed, and no further byte on WIRE; the quirk pattern is no exception. The
result of block 3 is FatalError(IDX) (R159) and IMG is not observable (70_reset_and_hazards.md R218). -/
def Obligations.FinalBlockMismatchAbortsAtOnce : Prop :=
  ∀ (s : State) (n : Nat), s.seq = .txEcho .three n → s.inputs = [] → s.linkOpen = true →
    (s.nextMove.answer = .fail → s.cfg.linkFail = false) →
    (enqueue s.cfg.wMax s.rxq s.nextMove.arrive).take n ≠ [s.txb] →
    ∃ t, runFor 2 s = .next t ∧ t.busy = false ∧ t.err = .echoMismatchFatal ∧
      t.erridx.toNat = s.idx.toNat ∧ t.fsm = .aborted ∧ t.linkOpen = false ∧ t.wire = s.wire ∧
      t.log = s.log ++ [.fatal .three s.idx.toNat s.txb
        ((enqueue s.cfg.wMax s.rxq s.nextMove.arrive).take n)] ∧
      t.img = s.img ∧ t.recov1 = s.recov1 ∧ t.recov2 = s.recov2 ∧ t.mmcnt = s.mmcnt ∧
      (s.dir = .tx → blockResult .three t = some (.fatal (s.idx.setWidth 16))) ∧
      sendResult t = some .echoMismatchFatal ∧ (observe 0x21#8 t).map (·.img) = some none

/-- 43_send.md R153: the ACK exchange of a non-final block. Whatever the device side supplies, both reads are
logged, one 0x06 is written, and the next block starts; no content is compared. -/
def Obligations.AckExchangeChecksNoContent : Prop :=
  ∀ (s : State) (b : Block) (a₀ a₁ a₂ a₃ a₄ a₅ : List Byte) (rest : List DevMove),
    s.seq = .txSettle b → b ≠ .three → s.inputs = [] → s.linkOpen = true → s.cfg.wMax = none →
    s.dev = [supplies a₀, supplies a₁, supplies a₂, supplies a₃, supplies a₄, supplies a₅] ++ rest →
    ∃ t q₁ d l₁ q₂ e, runFor 6 s = .next t ∧
      q₁ = s.rxq ++ a₀ ++ a₁ ∧ d ++ l₁ = q₁ ++ a₂ ∧
      d.length = min (max q₁.length s.cfg.ackReadMin.val) (q₁ ++ a₂).length ∧
      q₂ = l₁ ++ a₃ ++ a₄ ∧ e ++ t.rxq = q₂ ++ a₅ ∧
      e.length = min (max q₂.length s.cfg.ackReadMin.val) (q₂ ++ a₅).length ∧
      t.log = s.log ++ [.devAck b d, .ackEcho .tx b e] ∧
      t.wire = s.wire ++ [.byte 0x06#8] ∧ t.seq = .txWrite (nextBlock b) 0 ∧ t.dev = rest ∧
      t.err = s.err ∧ t.mmcnt = s.mmcnt ∧ t.img = s.img ∧ t.recov1 = s.recov1 ∧
      t.recov2 = s.recov2 ∧ t.linkOpen = true

/-- 43_send.md R145, R156: a block whose every byte is echoed is sent in full: WIRE gains its bytes in ascending
order, each followed by a break in blocks 1 and 2 and bare in block 3; no mismatch is counted. -/
def Obligations.FaithfulEchoSendsTheWholeBlock : Prop :=
  ∀ (s : State) (b : Block) (rest : List DevMove),
    s.seq = .txWrite b 0 → s.inputs = [] → s.linkOpen = true → s.cfg.wMax = none → s.rxq = [] →
    s.dev = faithfulBlock b s ++ rest →
    ∃ t, runFor (faithfulBlock b s).length s = .next t ∧
      t.seq = (if b = .three then .completing else .txSettle b) ∧
      t.wire = s.wire ++ blockWire b s ∧ t.fsm = segState b ∧ t.blk = blockCode b ∧
      t.dev = rest ∧ t.rxq = [] ∧ t.mmcnt = s.mmcnt ∧ t.log = s.log ∧ t.err = s.err ∧
      t.recov1 = s.recov1 ∧ t.recov2 = s.recov2 ∧ t.img = s.img ∧ t.linkOpen = true

/-- 43_send.md R156, R159, 70_reset_and_hazards.md R218: a SEND whose device side echoes every byte, sends one byte
after each of the blocks 1 and 2 and echoes the engine's ACK completes: ERR = 0, no mismatch, WIRE gains the three
blocks of the corrected image in ascending order with one ACK after each of the first two, IMG is the image after
CorrectPass, the link is closed. The contents of the device's bytes are not compared. The result of every block is
Ok and IMG is observable. -/
def Obligations.FaithfulSendTransmitsTheCorrectedImage : Prop :=
  ∀ (s : State) (d₁ e₁ d₂ e₂ : List Byte) (rest : List DevMove),
    s.busy = false → s.inputs = [] → s.linkOpen = true → s.cfg.wMax = none → s.len.toNat = 16211 →
    d₁.length = 1 → e₁.length = 1 → d₂.length = 1 → e₂.length = 1 →
    s.dev = faithfulSend s.correctPass d₁ e₁ d₂ e₂ ++ rest →
    ∃ s₁ t, exec .cmdSend s = .next s₁ ∧
      runFor ((faithfulSend s.correctPass d₁ e₁ d₂ e₂).length + 2) s₁ = .next t ∧
      t.busy = false ∧ t.err = .none ∧ t.fsm = .complete ∧ t.dir = .tx ∧ t.linkOpen = false ∧
      t.mmcnt = 0 ∧ t.recov1 = false ∧ t.recov2 = false ∧ t.erridx = 0 ∧ t.len = s.len ∧ t.vok = s.vok ∧
      t.img = s.correctPass.img ∧ t.verifyPass = true ∧ t.dev = rest ∧
      t.wire = s.wire ++ blockWire .one s.correctPass ++ [.byte 0x06#8] ++
        blockWire .two s.correctPass ++ [.byte 0x06#8] ++ blockWire .three s.correctPass ∧
      t.log = s.log ++ [.devAck .one d₁, .ackEcho .tx .one e₁, .devAck .two d₂, .ackEcho .tx .two e₂] ∧
      (∀ b, blockResult b t = some .ok) ∧ sendResult t = some .none ∧
      (observe 0x21#8 t).map (·.img) = some (some (imageBytes s.correctPass))

/-! ### Properties of every step -/

/-- The reset state satisfies the invariant. -/
def Obligations.ResetSatisfiesInv : Prop := Inv State.reset

/-- Every step keeps the invariant: the canonical form of IMG, MMCNT at most 18 (10_state.md R24), RXCNT at most
16211 (R13), FSM, BLK, DIR, LINKOPEN and ERR fitting the place in the pseudocode (42_receive.md R129,
43_send.md R157, 10_state.md R32). -/
def Obligations.EveryStepKeepsInv : Prop :=
  ∀ s t : State, Inv s → step s = .next t → Inv t

/-- 60_exceptions.md R170, R178, 30_encoding.md R70: in a state of the invariant no step faults, and with nothing
queued from outside the engine always has a next state. -/
def Obligations.EngineNeverStops : Prop :=
  ∀ s : State, Inv s → (∀ f, step s ≠ .fault f) ∧ (s.inputs = [] → ∃ t, step s = .next t)

/-- 70_reset_and_hazards.md R216: when every primitive returns, every command ends, within 48,667 steps at most
(the bound `stepsLeft` of the first place of SEND). -/
def Obligations.EveryCommandEnds : Prop :=
  (∀ s : State, stepsLeft s ≤ 48667) ∧
  (∀ s : State, Inv s → s.inputs = [] → neverStalls s.dev → stepsLeft s ≤ s.dev.length →
    ∃ k t, k ≤ stepsLeft s ∧ runFor k s = .next t ∧ t.busy = false)

/-- 20_memory.md R50, 43_send.md R142: at every place of a SEND after its CorrectPass the image is
checksum-consistent; every step keeps this. -/
def Obligations.SendTransmitsAConsistentImage : Prop :=
  ∀ s t : State, sendsConsistent s → step s = .next t → sendsConsistent t

/-- 42_receive.md R129, 43_send.md R157: FSM moves only along the transition tables, unless the block is reset. -/
def Obligations.FsmMovesAlongTheTables : Prop :=
  ∀ s t : State, Inv s → s.inputs.head? ≠ some .reset → step s = .next t →
    t.fsm = s.fsm ∨ (s.fsm, t.fsm) ∈ fsmMoves

/-- 10_state.md R27, R28: WIRE and LOG are append-only, and are emptied only by reset; no step changes the
parameters of 00_scope.md R7. -/
def Obligations.HistoriesAreAppendOnly : Prop :=
  ∀ s t : State, step s = .next t →
    t.cfg = s.cfg ∧
    (s.inputs.head? ≠ some .reset → s.wire <+: t.wire ∧ s.log <+: t.log)

/-- 20_memory.md R47: the engine writes IMG only in a checksum correction, at the three checkbytes, and in a
segment read of RECV, from offset RXCNT on; no instruction writes IMG itself. -/
def Obligations.EngineWritesImgOnlyWhereAllowed : Prop :=
  (∀ (i : Instr) (s t : State), exec i s = .next t → t.img = s.img) ∧
  (∀ s t : State, engineStep s = .next t →
    (writesImg s.seq = false → t.img = s.img) ∧
    (s.seq = .correctPass ∨ s.seq = .rxCorrect ∨ s.seq = .txCorrect →
      ∀ a, isCheckbyte a = false → t.imgByte a = s.imgByte a) ∧
    (∀ b, s.seq = .rxRead b → ∀ a, a < s.rxcnt.toNat ∨ s.rxcnt.toNat + segLen b ≤ a →
      t.imgByte a = s.imgByte a))

/-- 10_state.md R19, R25: VOK is written only by VERIFY and by reset: no other instruction and no other engine step
changes it, and no step of the machine does but a reset, VERIFY's pass, and the taking of the byte 0x10 at CMD by
an idle engine. -/
def Obligations.VokIsWrittenOnlyByVerifyAndReset : Prop :=
  (∀ (i : Instr) (s t : State), i ≠ .cmdVerify → exec i s = .next t → t.vok = s.vok) ∧
  (∀ s t : State, s.seq ≠ .verifyPass → engineStep s = .next t → t.vok = s.vok) ∧
  (∀ s t : State, step s = .next t →
    t.vok = s.vok ∨ s.inputs.head? = some .reset ∨
    (s.seq = .verifyPass ∧ (s.inputs = [] ∨ s.inputs.head? = some .turn ∨ s.inputs.head? = some .poll)) ∨
    (s.busy = false ∧ (s.inputs.head? = some (.unit (.cmd8 0x10#8)) ∨
      ∃ v : BitVec 16, v.setWidth 8 = 0x10#8 ∧ s.inputs.head? = some (.csrWrite 0 v))))

/-- 40_link.md R94: VERIFY and CORRECT issue no link primitive: the link, WIRE and the device side's moves are as
before, with the link open or closed. -/
def Obligations.ChecksumCommandsTouchNoLink : Prop :=
  ∀ (s s₁ t : State) (i : Instr), i = .cmdVerify ∨ i = .cmdCorrect → s.busy = false → s.inputs = [] →
    exec i s = .next s₁ → step s₁ = .next t →
    t.linkOpen = s.linkOpen ∧ t.rxq = s.rxq ∧ t.wire = s.wire ∧ t.dev = s.dev ∧ t.draws = s.draws ∧
      t.busy = false
end

