-- ==== Sys2Proof/Laws/State.lean ====
section
/-! SUPPORT. One lemma per field of State and per named update: what each leaves alone and what it writes. -/

namespace Sys2Proof.Machine

/-! ### setImg -/

@[simp] theorem State.setImg_img (a : Nat) (v : Byte) (s : State) : (s.setImg a v).img = Memory.write s.img a v :=
  rfl
@[simp] theorem State.setImg_len (a : Nat) (v : Byte) (s : State) : (s.setImg a v).len = s.len :=
  rfl
@[simp] theorem State.setImg_acc (a : Nat) (v : Byte) (s : State) : (s.setImg a v).acc = s.acc :=
  rfl
@[simp] theorem State.setImg_txb (a : Nat) (v : Byte) (s : State) : (s.setImg a v).txb = s.txb :=
  rfl
@[simp] theorem State.setImg_echo (a : Nat) (v : Byte) (s : State) : (s.setImg a v).echo = s.echo :=
  rfl
@[simp] theorem State.setImg_rxcnt (a : Nat) (v : Byte) (s : State) : (s.setImg a v).rxcnt = s.rxcnt :=
  rfl
@[simp] theorem State.setImg_blk (a : Nat) (v : Byte) (s : State) : (s.setImg a v).blk = s.blk :=
  rfl
@[simp] theorem State.setImg_idx (a : Nat) (v : Byte) (s : State) : (s.setImg a v).idx = s.idx :=
  rfl
@[simp] theorem State.setImg_fsm (a : Nat) (v : Byte) (s : State) : (s.setImg a v).fsm = s.fsm :=
  rfl
@[simp] theorem State.setImg_dir (a : Nat) (v : Byte) (s : State) : (s.setImg a v).dir = s.dir :=
  rfl
@[simp] theorem State.setImg_seq (a : Nat) (v : Byte) (s : State) : (s.setImg a v).seq = s.seq :=
  rfl
@[simp] theorem State.setImg_vok (a : Nat) (v : Byte) (s : State) : (s.setImg a v).vok = s.vok :=
  rfl
@[simp] theorem State.setImg_recov1 (a : Nat) (v : Byte) (s : State) : (s.setImg a v).recov1 = s.recov1 :=
  rfl
@[simp] theorem State.setImg_recov2 (a : Nat) (v : Byte) (s : State) : (s.setImg a v).recov2 = s.recov2 :=
  rfl
@[simp] theorem State.setImg_underrun (a : Nat) (v : Byte) (s : State) : (s.setImg a v).underrun = s.underrun :=
  rfl
@[simp] theorem State.setImg_err (a : Nat) (v : Byte) (s : State) : (s.setImg a v).err = s.err :=
  rfl
@[simp] theorem State.setImg_erridx (a : Nat) (v : Byte) (s : State) : (s.setImg a v).erridx = s.erridx :=
  rfl
@[simp] theorem State.setImg_mmcnt (a : Nat) (v : Byte) (s : State) : (s.setImg a v).mmcnt = s.mmcnt :=
  rfl
@[simp] theorem State.setImg_linkOpen (a : Nat) (v : Byte) (s : State) : (s.setImg a v).linkOpen = s.linkOpen :=
  rfl
@[simp] theorem State.setImg_rxq (a : Nat) (v : Byte) (s : State) : (s.setImg a v).rxq = s.rxq :=
  rfl
@[simp] theorem State.setImg_wire (a : Nat) (v : Byte) (s : State) : (s.setImg a v).wire = s.wire :=
  rfl
@[simp] theorem State.setImg_log (a : Nat) (v : Byte) (s : State) : (s.setImg a v).log = s.log :=
  rfl
@[simp] theorem State.setImg_lkres (a : Nat) (v : Byte) (s : State) : (s.setImg a v).lkres = s.lkres :=
  rfl
@[simp] theorem State.setImg_hrd (a : Nat) (v : Byte) (s : State) : (s.setImg a v).hrd = s.hrd :=
  rfl
@[simp] theorem State.setImg_inputs (a : Nat) (v : Byte) (s : State) : (s.setImg a v).inputs = s.inputs :=
  rfl
@[simp] theorem State.setImg_dev (a : Nat) (v : Byte) (s : State) : (s.setImg a v).dev = s.dev :=
  rfl
@[simp] theorem State.setImg_draws (a : Nat) (v : Byte) (s : State) : (s.setImg a v).draws = s.draws :=
  rfl
@[simp] theorem State.setImg_epoch (a : Nat) (v : Byte) (s : State) : (s.setImg a v).epoch = s.epoch :=
  rfl
@[simp] theorem State.setImg_cfg (a : Nat) (v : Byte) (s : State) : (s.setImg a v).cfg = s.cfg :=
  rfl

/-! ### goTo -/

@[simp] theorem State.goTo_img (p : SeqPos) (s : State) : (s.goTo p).img = s.img := rfl
@[simp] theorem State.goTo_len (p : SeqPos) (s : State) : (s.goTo p).len = s.len := rfl
@[simp] theorem State.goTo_acc (p : SeqPos) (s : State) : (s.goTo p).acc = s.acc := rfl
@[simp] theorem State.goTo_txb (p : SeqPos) (s : State) : (s.goTo p).txb = s.txb := rfl
@[simp] theorem State.goTo_echo (p : SeqPos) (s : State) : (s.goTo p).echo = s.echo := rfl
@[simp] theorem State.goTo_rxcnt (p : SeqPos) (s : State) : (s.goTo p).rxcnt = s.rxcnt := rfl
@[simp] theorem State.goTo_blk (p : SeqPos) (s : State) : (s.goTo p).blk = s.blk := rfl
@[simp] theorem State.goTo_idx (p : SeqPos) (s : State) : (s.goTo p).idx = s.idx := rfl
@[simp] theorem State.goTo_fsm (p : SeqPos) (s : State) : (s.goTo p).fsm = s.fsm := rfl
@[simp] theorem State.goTo_dir (p : SeqPos) (s : State) : (s.goTo p).dir = s.dir := rfl
@[simp] theorem State.goTo_seq (p : SeqPos) (s : State) : (s.goTo p).seq = p := rfl
@[simp] theorem State.goTo_vok (p : SeqPos) (s : State) : (s.goTo p).vok = s.vok := rfl
@[simp] theorem State.goTo_recov1 (p : SeqPos) (s : State) : (s.goTo p).recov1 = s.recov1 := rfl
@[simp] theorem State.goTo_recov2 (p : SeqPos) (s : State) : (s.goTo p).recov2 = s.recov2 := rfl
@[simp] theorem State.goTo_underrun (p : SeqPos) (s : State) : (s.goTo p).underrun = s.underrun :=
  rfl
@[simp] theorem State.goTo_err (p : SeqPos) (s : State) : (s.goTo p).err = s.err := rfl
@[simp] theorem State.goTo_erridx (p : SeqPos) (s : State) : (s.goTo p).erridx = s.erridx := rfl
@[simp] theorem State.goTo_mmcnt (p : SeqPos) (s : State) : (s.goTo p).mmcnt = s.mmcnt := rfl
@[simp] theorem State.goTo_linkOpen (p : SeqPos) (s : State) : (s.goTo p).linkOpen = s.linkOpen :=
  rfl
@[simp] theorem State.goTo_rxq (p : SeqPos) (s : State) : (s.goTo p).rxq = s.rxq := rfl
@[simp] theorem State.goTo_wire (p : SeqPos) (s : State) : (s.goTo p).wire = s.wire := rfl
@[simp] theorem State.goTo_log (p : SeqPos) (s : State) : (s.goTo p).log = s.log := rfl
@[simp] theorem State.goTo_lkres (p : SeqPos) (s : State) : (s.goTo p).lkres = s.lkres := rfl
@[simp] theorem State.goTo_hrd (p : SeqPos) (s : State) : (s.goTo p).hrd = s.hrd := rfl
@[simp] theorem State.goTo_inputs (p : SeqPos) (s : State) : (s.goTo p).inputs = s.inputs := rfl
@[simp] theorem State.goTo_dev (p : SeqPos) (s : State) : (s.goTo p).dev = s.dev := rfl
@[simp] theorem State.goTo_draws (p : SeqPos) (s : State) : (s.goTo p).draws = s.draws := rfl
@[simp] theorem State.goTo_epoch (p : SeqPos) (s : State) : (s.goTo p).epoch = s.epoch := rfl
@[simp] theorem State.goTo_cfg (p : SeqPos) (s : State) : (s.goTo p).cfg = s.cfg := rfl

/-! ### finish -/

@[simp] theorem State.finish_img (s : State) : (s.finish).img = s.img := rfl
@[simp] theorem State.finish_len (s : State) : (s.finish).len = s.len := rfl
@[simp] theorem State.finish_acc (s : State) : (s.finish).acc = s.acc := rfl
@[simp] theorem State.finish_txb (s : State) : (s.finish).txb = s.txb := rfl
@[simp] theorem State.finish_echo (s : State) : (s.finish).echo = s.echo := rfl
@[simp] theorem State.finish_rxcnt (s : State) : (s.finish).rxcnt = s.rxcnt := rfl
@[simp] theorem State.finish_blk (s : State) : (s.finish).blk = s.blk := rfl
@[simp] theorem State.finish_idx (s : State) : (s.finish).idx = s.idx := rfl
@[simp] theorem State.finish_fsm (s : State) : (s.finish).fsm = s.fsm := rfl
@[simp] theorem State.finish_dir (s : State) : (s.finish).dir = s.dir := rfl
@[simp] theorem State.finish_seq (s : State) : (s.finish).seq = .idle := rfl
@[simp] theorem State.finish_vok (s : State) : (s.finish).vok = s.vok := rfl
@[simp] theorem State.finish_recov1 (s : State) : (s.finish).recov1 = s.recov1 := rfl
@[simp] theorem State.finish_recov2 (s : State) : (s.finish).recov2 = s.recov2 := rfl
@[simp] theorem State.finish_underrun (s : State) : (s.finish).underrun = s.underrun := rfl
@[simp] theorem State.finish_err (s : State) : (s.finish).err = s.err := rfl
@[simp] theorem State.finish_erridx (s : State) : (s.finish).erridx = s.erridx := rfl
@[simp] theorem State.finish_mmcnt (s : State) : (s.finish).mmcnt = s.mmcnt := rfl
@[simp] theorem State.finish_linkOpen (s : State) : (s.finish).linkOpen = s.linkOpen := rfl
@[simp] theorem State.finish_rxq (s : State) : (s.finish).rxq = s.rxq := rfl
@[simp] theorem State.finish_wire (s : State) : (s.finish).wire = s.wire := rfl
@[simp] theorem State.finish_log (s : State) : (s.finish).log = s.log := rfl
@[simp] theorem State.finish_lkres (s : State) : (s.finish).lkres = s.lkres := rfl
@[simp] theorem State.finish_hrd (s : State) : (s.finish).hrd = s.hrd := rfl
@[simp] theorem State.finish_inputs (s : State) : (s.finish).inputs = s.inputs := rfl
@[simp] theorem State.finish_dev (s : State) : (s.finish).dev = s.dev := rfl
@[simp] theorem State.finish_draws (s : State) : (s.finish).draws = s.draws := rfl
@[simp] theorem State.finish_epoch (s : State) : (s.finish).epoch = s.epoch := rfl
@[simp] theorem State.finish_cfg (s : State) : (s.finish).cfg = s.cfg := rfl

/-! ### addLog -/

@[simp] theorem State.addLog_img (e : LogEvent) (s : State) : (s.addLog e).img = s.img := rfl
@[simp] theorem State.addLog_len (e : LogEvent) (s : State) : (s.addLog e).len = s.len := rfl
@[simp] theorem State.addLog_acc (e : LogEvent) (s : State) : (s.addLog e).acc = s.acc := rfl
@[simp] theorem State.addLog_txb (e : LogEvent) (s : State) : (s.addLog e).txb = s.txb := rfl
@[simp] theorem State.addLog_echo (e : LogEvent) (s : State) : (s.addLog e).echo = s.echo := rfl
@[simp] theorem State.addLog_rxcnt (e : LogEvent) (s : State) : (s.addLog e).rxcnt = s.rxcnt := rfl
@[simp] theorem State.addLog_blk (e : LogEvent) (s : State) : (s.addLog e).blk = s.blk := rfl
@[simp] theorem State.addLog_idx (e : LogEvent) (s : State) : (s.addLog e).idx = s.idx := rfl
@[simp] theorem State.addLog_fsm (e : LogEvent) (s : State) : (s.addLog e).fsm = s.fsm := rfl
@[simp] theorem State.addLog_dir (e : LogEvent) (s : State) : (s.addLog e).dir = s.dir := rfl
@[simp] theorem State.addLog_seq (e : LogEvent) (s : State) : (s.addLog e).seq = s.seq := rfl
@[simp] theorem State.addLog_vok (e : LogEvent) (s : State) : (s.addLog e).vok = s.vok := rfl
@[simp] theorem State.addLog_recov1 (e : LogEvent) (s : State) : (s.addLog e).recov1 = s.recov1 :=
  rfl
@[simp] theorem State.addLog_recov2 (e : LogEvent) (s : State) : (s.addLog e).recov2 = s.recov2 :=
  rfl
@[simp] theorem State.addLog_underrun (e : LogEvent) (s : State) : (s.addLog e).underrun = s.underrun :=
  rfl
@[simp] theorem State.addLog_err (e : LogEvent) (s : State) : (s.addLog e).err = s.err := rfl
@[simp] theorem State.addLog_erridx (e : LogEvent) (s : State) : (s.addLog e).erridx = s.erridx :=
  rfl
@[simp] theorem State.addLog_mmcnt (e : LogEvent) (s : State) : (s.addLog e).mmcnt = s.mmcnt := rfl
@[simp] theorem State.addLog_linkOpen (e : LogEvent) (s : State) : (s.addLog e).linkOpen = s.linkOpen :=
  rfl
@[simp] theorem State.addLog_rxq (e : LogEvent) (s : State) : (s.addLog e).rxq = s.rxq := rfl
@[simp] theorem State.addLog_wire (e : LogEvent) (s : State) : (s.addLog e).wire = s.wire := rfl
@[simp] theorem State.addLog_log (e : LogEvent) (s : State) : (s.addLog e).log = s.log ++ [e] := rfl
@[simp] theorem State.addLog_lkres (e : LogEvent) (s : State) : (s.addLog e).lkres = s.lkres := rfl
@[simp] theorem State.addLog_hrd (e : LogEvent) (s : State) : (s.addLog e).hrd = s.hrd := rfl
@[simp] theorem State.addLog_inputs (e : LogEvent) (s : State) : (s.addLog e).inputs = s.inputs :=
  rfl
@[simp] theorem State.addLog_dev (e : LogEvent) (s : State) : (s.addLog e).dev = s.dev := rfl
@[simp] theorem State.addLog_draws (e : LogEvent) (s : State) : (s.addLog e).draws = s.draws := rfl
@[simp] theorem State.addLog_epoch (e : LogEvent) (s : State) : (s.addLog e).epoch = s.epoch := rfl
@[simp] theorem State.addLog_cfg (e : LogEvent) (s : State) : (s.addLog e).cfg = s.cfg := rfl

/-! ### acknowledge -/

@[simp] theorem State.acknowledge_img (s : State) : (s.acknowledge).img = s.img := rfl
@[simp] theorem State.acknowledge_len (s : State) : (s.acknowledge).len = s.len := rfl
@[simp] theorem State.acknowledge_acc (s : State) : (s.acknowledge).acc = s.acc := rfl
@[simp] theorem State.acknowledge_txb (s : State) : (s.acknowledge).txb = s.txb := rfl
@[simp] theorem State.acknowledge_echo (s : State) : (s.acknowledge).echo = s.echo := rfl
@[simp] theorem State.acknowledge_rxcnt (s : State) : (s.acknowledge).rxcnt = s.rxcnt := rfl
@[simp] theorem State.acknowledge_blk (s : State) : (s.acknowledge).blk = s.blk := rfl
@[simp] theorem State.acknowledge_idx (s : State) : (s.acknowledge).idx = s.idx := rfl
@[simp] theorem State.acknowledge_fsm (s : State) : (s.acknowledge).fsm = s.fsm := rfl
@[simp] theorem State.acknowledge_dir (s : State) : (s.acknowledge).dir = s.dir := rfl
@[simp] theorem State.acknowledge_seq (s : State) : (s.acknowledge).seq = s.seq := rfl
@[simp] theorem State.acknowledge_vok (s : State) : (s.acknowledge).vok = s.vok := rfl
@[simp] theorem State.acknowledge_recov1 (s : State) : (s.acknowledge).recov1 = s.recov1 := rfl
@[simp] theorem State.acknowledge_recov2 (s : State) : (s.acknowledge).recov2 = s.recov2 := rfl
@[simp] theorem State.acknowledge_underrun (s : State) : (s.acknowledge).underrun = s.underrun :=
  rfl
@[simp] theorem State.acknowledge_err (s : State) : (s.acknowledge).err = .none := rfl
@[simp] theorem State.acknowledge_erridx (s : State) : (s.acknowledge).erridx = s.erridx := rfl
@[simp] theorem State.acknowledge_mmcnt (s : State) : (s.acknowledge).mmcnt = s.mmcnt := rfl
@[simp] theorem State.acknowledge_linkOpen (s : State) : (s.acknowledge).linkOpen = s.linkOpen :=
  rfl
@[simp] theorem State.acknowledge_rxq (s : State) : (s.acknowledge).rxq = s.rxq := rfl
@[simp] theorem State.acknowledge_wire (s : State) : (s.acknowledge).wire = s.wire := rfl
@[simp] theorem State.acknowledge_log (s : State) : (s.acknowledge).log = s.log := rfl
@[simp] theorem State.acknowledge_lkres (s : State) : (s.acknowledge).lkres = s.lkres := rfl
@[simp] theorem State.acknowledge_hrd (s : State) : (s.acknowledge).hrd = s.hrd := rfl
@[simp] theorem State.acknowledge_inputs (s : State) : (s.acknowledge).inputs = s.inputs := rfl
@[simp] theorem State.acknowledge_dev (s : State) : (s.acknowledge).dev = s.dev := rfl
@[simp] theorem State.acknowledge_draws (s : State) : (s.acknowledge).draws = s.draws := rfl
@[simp] theorem State.acknowledge_epoch (s : State) : (s.acknowledge).epoch = s.epoch := rfl
@[simp] theorem State.acknowledge_cfg (s : State) : (s.acknowledge).cfg = s.cfg := rfl

/-! ### raiseError -/

@[simp] theorem State.raiseError_img (e : ErrCode) (s : State) : (s.raiseError e).img = s.img :=
  by unfold State.raiseError; split <;> rfl
@[simp] theorem State.raiseError_len (e : ErrCode) (s : State) : (s.raiseError e).len = s.len :=
  by unfold State.raiseError; split <;> rfl
@[simp] theorem State.raiseError_acc (e : ErrCode) (s : State) : (s.raiseError e).acc = s.acc :=
  by unfold State.raiseError; split <;> rfl
@[simp] theorem State.raiseError_txb (e : ErrCode) (s : State) : (s.raiseError e).txb = s.txb :=
  by unfold State.raiseError; split <;> rfl
@[simp] theorem State.raiseError_echo (e : ErrCode) (s : State) : (s.raiseError e).echo = s.echo :=
  by unfold State.raiseError; split <;> rfl
@[simp] theorem State.raiseError_rxcnt (e : ErrCode) (s : State) : (s.raiseError e).rxcnt = s.rxcnt :=
  by unfold State.raiseError; split <;> rfl
@[simp] theorem State.raiseError_blk (e : ErrCode) (s : State) : (s.raiseError e).blk = s.blk :=
  by unfold State.raiseError; split <;> rfl
@[simp] theorem State.raiseError_idx (e : ErrCode) (s : State) : (s.raiseError e).idx = s.idx :=
  by unfold State.raiseError; split <;> rfl
@[simp] theorem State.raiseError_dir (e : ErrCode) (s : State) : (s.raiseError e).dir = s.dir :=
  by unfold State.raiseError; split <;> rfl
@[simp] theorem State.raiseError_vok (e : ErrCode) (s : State) : (s.raiseError e).vok = s.vok :=
  by unfold State.raiseError; split <;> rfl
@[simp] theorem State.raiseError_recov1 (e : ErrCode) (s : State) : (s.raiseError e).recov1 = s.recov1 :=
  by unfold State.raiseError; split <;> rfl
@[simp] theorem State.raiseError_recov2 (e : ErrCode) (s : State) : (s.raiseError e).recov2 = s.recov2 :=
  by unfold State.raiseError; split <;> rfl
@[simp] theorem State.raiseError_underrun (e : ErrCode) (s : State) : (s.raiseError e).underrun = s.underrun :=
  by unfold State.raiseError; split <;> rfl
@[simp] theorem State.raiseError_err (e : ErrCode) (s : State) : (s.raiseError e).err = e :=
  by unfold State.raiseError; split <;> rfl
@[simp] theorem State.raiseError_erridx (e : ErrCode) (s : State) : (s.raiseError e).erridx = s.erridx :=
  by unfold State.raiseError; split <;> rfl
@[simp] theorem State.raiseError_mmcnt (e : ErrCode) (s : State) : (s.raiseError e).mmcnt = s.mmcnt :=
  by unfold State.raiseError; split <;> rfl
@[simp] theorem State.raiseError_linkOpen (e : ErrCode) (s : State) : (s.raiseError e).linkOpen = s.linkOpen :=
  by unfold State.raiseError; split <;> rfl
@[simp] theorem State.raiseError_rxq (e : ErrCode) (s : State) : (s.raiseError e).rxq = s.rxq :=
  by unfold State.raiseError; split <;> rfl
@[simp] theorem State.raiseError_wire (e : ErrCode) (s : State) : (s.raiseError e).wire = s.wire :=
  by unfold State.raiseError; split <;> rfl
@[simp] theorem State.raiseError_log (e : ErrCode) (s : State) : (s.raiseError e).log = s.log :=
  by unfold State.raiseError; split <;> rfl
@[simp] theorem State.raiseError_lkres (e : ErrCode) (s : State) : (s.raiseError e).lkres = s.lkres :=
  by unfold State.raiseError; split <;> rfl
@[simp] theorem State.raiseError_hrd (e : ErrCode) (s : State) : (s.raiseError e).hrd = s.hrd :=
  by unfold State.raiseError; split <;> rfl
@[simp] theorem State.raiseError_inputs (e : ErrCode) (s : State) : (s.raiseError e).inputs = s.inputs :=
  by unfold State.raiseError; split <;> rfl
@[simp] theorem State.raiseError_dev (e : ErrCode) (s : State) : (s.raiseError e).dev = s.dev :=
  by unfold State.raiseError; split <;> rfl
@[simp] theorem State.raiseError_draws (e : ErrCode) (s : State) : (s.raiseError e).draws = s.draws :=
  by unfold State.raiseError; split <;> rfl
@[simp] theorem State.raiseError_epoch (e : ErrCode) (s : State) : (s.raiseError e).epoch = s.epoch :=
  by unfold State.raiseError; split <;> rfl
@[simp] theorem State.raiseError_cfg (e : ErrCode) (s : State) : (s.raiseError e).cfg = s.cfg :=
  by unfold State.raiseError; split <;> rfl

/-! ### startSession -/

@[simp] theorem State.startSession_img (d : Dir) (s : State) : (s.startSession d).img = s.img := rfl
@[simp] theorem State.startSession_len (d : Dir) (s : State) : (s.startSession d).len = s.len := rfl
@[simp] theorem State.startSession_acc (d : Dir) (s : State) : (s.startSession d).acc = s.acc := rfl
@[simp] theorem State.startSession_txb (d : Dir) (s : State) : (s.startSession d).txb = s.txb := rfl
@[simp] theorem State.startSession_echo (d : Dir) (s : State) : (s.startSession d).echo = s.echo :=
  rfl
@[simp] theorem State.startSession_rxcnt (d : Dir) (s : State) : (s.startSession d).rxcnt = s.rxcnt :=
  rfl
@[simp] theorem State.startSession_blk (d : Dir) (s : State) : (s.startSession d).blk = 0 := rfl
@[simp] theorem State.startSession_idx (d : Dir) (s : State) : (s.startSession d).idx = s.idx := rfl
@[simp] theorem State.startSession_fsm (d : Dir) (s : State) : (s.startSession d).fsm = .idle := rfl
@[simp] theorem State.startSession_dir (d : Dir) (s : State) : (s.startSession d).dir = d := rfl
@[simp] theorem State.startSession_seq (d : Dir) (s : State) : (s.startSession d).seq = s.seq := rfl
@[simp] theorem State.startSession_vok (d : Dir) (s : State) : (s.startSession d).vok = s.vok := rfl
@[simp] theorem State.startSession_recov1 (d : Dir) (s : State) : (s.startSession d).recov1 = false :=
  rfl
@[simp] theorem State.startSession_recov2 (d : Dir) (s : State) : (s.startSession d).recov2 = false :=
  rfl
@[simp] theorem State.startSession_underrun (d : Dir) (s : State) : (s.startSession d).underrun = false :=
  rfl
@[simp] theorem State.startSession_err (d : Dir) (s : State) : (s.startSession d).err = s.err := rfl
@[simp] theorem State.startSession_erridx (d : Dir) (s : State) : (s.startSession d).erridx = 0 :=
  rfl
@[simp] theorem State.startSession_mmcnt (d : Dir) (s : State) : (s.startSession d).mmcnt = 0 := rfl
@[simp] theorem State.startSession_linkOpen (d : Dir) (s : State) : (s.startSession d).linkOpen = s.linkOpen :=
  rfl
@[simp] theorem State.startSession_rxq (d : Dir) (s : State) : (s.startSession d).rxq = s.rxq := rfl
@[simp] theorem State.startSession_wire (d : Dir) (s : State) : (s.startSession d).wire = s.wire :=
  rfl
@[simp] theorem State.startSession_log (d : Dir) (s : State) : (s.startSession d).log = s.log := rfl
@[simp] theorem State.startSession_lkres (d : Dir) (s : State) : (s.startSession d).lkres = s.lkres :=
  rfl
@[simp] theorem State.startSession_hrd (d : Dir) (s : State) : (s.startSession d).hrd = s.hrd := rfl
@[simp] theorem State.startSession_inputs (d : Dir) (s : State) : (s.startSession d).inputs = s.inputs :=
  rfl
@[simp] theorem State.startSession_dev (d : Dir) (s : State) : (s.startSession d).dev = s.dev := rfl
@[simp] theorem State.startSession_draws (d : Dir) (s : State) : (s.startSession d).draws = s.draws :=
  rfl
@[simp] theorem State.startSession_epoch (d : Dir) (s : State) : (s.startSession d).epoch = s.epoch :=
  rfl
@[simp] theorem State.startSession_cfg (d : Dir) (s : State) : (s.startSession d).cfg = s.cfg := rfl

/-! ### setRecov -/

@[simp] theorem State.setRecov_img (b : Block) (s : State) : (s.setRecov b).img = s.img :=
  by cases b <;> rfl
@[simp] theorem State.setRecov_len (b : Block) (s : State) : (s.setRecov b).len = s.len :=
  by cases b <;> rfl
@[simp] theorem State.setRecov_acc (b : Block) (s : State) : (s.setRecov b).acc = s.acc :=
  by cases b <;> rfl
@[simp] theorem State.setRecov_txb (b : Block) (s : State) : (s.setRecov b).txb = s.txb :=
  by cases b <;> rfl
@[simp] theorem State.setRecov_echo (b : Block) (s : State) : (s.setRecov b).echo = s.echo :=
  by cases b <;> rfl
@[simp] theorem State.setRecov_rxcnt (b : Block) (s : State) : (s.setRecov b).rxcnt = s.rxcnt :=
  by cases b <;> rfl
@[simp] theorem State.setRecov_blk (b : Block) (s : State) : (s.setRecov b).blk = s.blk :=
  by cases b <;> rfl
@[simp] theorem State.setRecov_idx (b : Block) (s : State) : (s.setRecov b).idx = s.idx :=
  by cases b <;> rfl
@[simp] theorem State.setRecov_fsm (b : Block) (s : State) : (s.setRecov b).fsm = s.fsm :=
  by cases b <;> rfl
@[simp] theorem State.setRecov_dir (b : Block) (s : State) : (s.setRecov b).dir = s.dir :=
  by cases b <;> rfl
@[simp] theorem State.setRecov_seq (b : Block) (s : State) : (s.setRecov b).seq = s.seq :=
  by cases b <;> rfl
@[simp] theorem State.setRecov_vok (b : Block) (s : State) : (s.setRecov b).vok = s.vok :=
  by cases b <;> rfl
@[simp] theorem State.setRecov_underrun (b : Block) (s : State) : (s.setRecov b).underrun = s.underrun :=
  by cases b <;> rfl
@[simp] theorem State.setRecov_err (b : Block) (s : State) : (s.setRecov b).err = s.err :=
  by cases b <;> rfl
@[simp] theorem State.setRecov_erridx (b : Block) (s : State) : (s.setRecov b).erridx = s.erridx :=
  by cases b <;> rfl
@[simp] theorem State.setRecov_mmcnt (b : Block) (s : State) : (s.setRecov b).mmcnt = s.mmcnt :=
  by cases b <;> rfl
@[simp] theorem State.setRecov_linkOpen (b : Block) (s : State) : (s.setRecov b).linkOpen = s.linkOpen :=
  by cases b <;> rfl
@[simp] theorem State.setRecov_rxq (b : Block) (s : State) : (s.setRecov b).rxq = s.rxq :=
  by cases b <;> rfl
@[simp] theorem State.setRecov_wire (b : Block) (s : State) : (s.setRecov b).wire = s.wire :=
  by cases b <;> rfl
@[simp] theorem State.setRecov_log (b : Block) (s : State) : (s.setRecov b).log = s.log :=
  by cases b <;> rfl
@[simp] theorem State.setRecov_lkres (b : Block) (s : State) : (s.setRecov b).lkres = s.lkres :=
  by cases b <;> rfl
@[simp] theorem State.setRecov_hrd (b : Block) (s : State) : (s.setRecov b).hrd = s.hrd :=
  by cases b <;> rfl
@[simp] theorem State.setRecov_inputs (b : Block) (s : State) : (s.setRecov b).inputs = s.inputs :=
  by cases b <;> rfl
@[simp] theorem State.setRecov_dev (b : Block) (s : State) : (s.setRecov b).dev = s.dev :=
  by cases b <;> rfl
@[simp] theorem State.setRecov_draws (b : Block) (s : State) : (s.setRecov b).draws = s.draws :=
  by cases b <;> rfl
@[simp] theorem State.setRecov_epoch (b : Block) (s : State) : (s.setRecov b).epoch = s.epoch :=
  by cases b <;> rfl
@[simp] theorem State.setRecov_cfg (b : Block) (s : State) : (s.setRecov b).cfg = s.cfg :=
  by cases b <;> rfl

/-! ### noteUnderrun -/

@[simp] theorem State.noteUnderrun_img (b : Block) (n : Nat) (s : State) : (s.noteUnderrun b n).img = s.img :=
  by unfold State.noteUnderrun; split <;> rfl
@[simp] theorem State.noteUnderrun_len (b : Block) (n : Nat) (s : State) : (s.noteUnderrun b n).len = s.len :=
  by unfold State.noteUnderrun; split <;> rfl
@[simp] theorem State.noteUnderrun_acc (b : Block) (n : Nat) (s : State) : (s.noteUnderrun b n).acc = s.acc :=
  by unfold State.noteUnderrun; split <;> rfl
@[simp] theorem State.noteUnderrun_txb (b : Block) (n : Nat) (s : State) : (s.noteUnderrun b n).txb = s.txb :=
  by unfold State.noteUnderrun; split <;> rfl
@[simp] theorem State.noteUnderrun_echo (b : Block) (n : Nat) (s : State) : (s.noteUnderrun b n).echo = s.echo :=
  by unfold State.noteUnderrun; split <;> rfl
@[simp] theorem State.noteUnderrun_rxcnt (b : Block) (n : Nat) (s : State) : (s.noteUnderrun b n).rxcnt = s.rxcnt :=
  by unfold State.noteUnderrun; split <;> rfl
@[simp] theorem State.noteUnderrun_blk (b : Block) (n : Nat) (s : State) : (s.noteUnderrun b n).blk = s.blk :=
  by unfold State.noteUnderrun; split <;> rfl
@[simp] theorem State.noteUnderrun_idx (b : Block) (n : Nat) (s : State) : (s.noteUnderrun b n).idx = s.idx :=
  by unfold State.noteUnderrun; split <;> rfl
@[simp] theorem State.noteUnderrun_fsm (b : Block) (n : Nat) (s : State) : (s.noteUnderrun b n).fsm = s.fsm :=
  by unfold State.noteUnderrun; split <;> rfl
@[simp] theorem State.noteUnderrun_dir (b : Block) (n : Nat) (s : State) : (s.noteUnderrun b n).dir = s.dir :=
  by unfold State.noteUnderrun; split <;> rfl
@[simp] theorem State.noteUnderrun_seq (b : Block) (n : Nat) (s : State) : (s.noteUnderrun b n).seq = s.seq :=
  by unfold State.noteUnderrun; split <;> rfl
@[simp] theorem State.noteUnderrun_vok (b : Block) (n : Nat) (s : State) : (s.noteUnderrun b n).vok = s.vok :=
  by unfold State.noteUnderrun; split <;> rfl
@[simp] theorem State.noteUnderrun_recov1 (b : Block) (n : Nat) (s : State) : (s.noteUnderrun b n).recov1 = s.recov1 :=
  by unfold State.noteUnderrun; split <;> rfl
@[simp] theorem State.noteUnderrun_recov2 (b : Block) (n : Nat) (s : State) : (s.noteUnderrun b n).recov2 = s.recov2 :=
  by unfold State.noteUnderrun; split <;> rfl
@[simp] theorem State.noteUnderrun_err (b : Block) (n : Nat) (s : State) : (s.noteUnderrun b n).err = s.err :=
  by unfold State.noteUnderrun; split <;> rfl
@[simp] theorem State.noteUnderrun_erridx (b : Block) (n : Nat) (s : State) : (s.noteUnderrun b n).erridx = s.erridx :=
  by unfold State.noteUnderrun; split <;> rfl
@[simp] theorem State.noteUnderrun_mmcnt (b : Block) (n : Nat) (s : State) : (s.noteUnderrun b n).mmcnt = s.mmcnt :=
  by unfold State.noteUnderrun; split <;> rfl
@[simp] theorem State.noteUnderrun_linkOpen (b : Block) (n : Nat) (s : State) : (s.noteUnderrun b n).linkOpen = s.linkOpen :=
  by unfold State.noteUnderrun; split <;> rfl
@[simp] theorem State.noteUnderrun_rxq (b : Block) (n : Nat) (s : State) : (s.noteUnderrun b n).rxq = s.rxq :=
  by unfold State.noteUnderrun; split <;> rfl
@[simp] theorem State.noteUnderrun_wire (b : Block) (n : Nat) (s : State) : (s.noteUnderrun b n).wire = s.wire :=
  by unfold State.noteUnderrun; split <;> rfl
@[simp] theorem State.noteUnderrun_lkres (b : Block) (n : Nat) (s : State) : (s.noteUnderrun b n).lkres = s.lkres :=
  by unfold State.noteUnderrun; split <;> rfl
@[simp] theorem State.noteUnderrun_hrd (b : Block) (n : Nat) (s : State) : (s.noteUnderrun b n).hrd = s.hrd :=
  by unfold State.noteUnderrun; split <;> rfl
@[simp] theorem State.noteUnderrun_inputs (b : Block) (n : Nat) (s : State) : (s.noteUnderrun b n).inputs = s.inputs :=
  by unfold State.noteUnderrun; split <;> rfl
@[simp] theorem State.noteUnderrun_dev (b : Block) (n : Nat) (s : State) : (s.noteUnderrun b n).dev = s.dev :=
  by unfold State.noteUnderrun; split <;> rfl
@[simp] theorem State.noteUnderrun_draws (b : Block) (n : Nat) (s : State) : (s.noteUnderrun b n).draws = s.draws :=
  by unfold State.noteUnderrun; split <;> rfl
@[simp] theorem State.noteUnderrun_epoch (b : Block) (n : Nat) (s : State) : (s.noteUnderrun b n).epoch = s.epoch :=
  by unfold State.noteUnderrun; split <;> rfl
@[simp] theorem State.noteUnderrun_cfg (b : Block) (n : Nat) (s : State) : (s.noteUnderrun b n).cfg = s.cfg :=
  by unfold State.noteUnderrun; split <;> rfl

/-! ### noteMismatch -/

@[simp] theorem State.noteMismatch_img (b : Block) (e : List Byte) (s : State) : (s.noteMismatch b e).img = s.img :=
  rfl
@[simp] theorem State.noteMismatch_len (b : Block) (e : List Byte) (s : State) : (s.noteMismatch b e).len = s.len :=
  rfl
@[simp] theorem State.noteMismatch_acc (b : Block) (e : List Byte) (s : State) : (s.noteMismatch b e).acc = s.acc :=
  rfl
@[simp] theorem State.noteMismatch_txb (b : Block) (e : List Byte) (s : State) : (s.noteMismatch b e).txb = s.txb :=
  rfl
@[simp] theorem State.noteMismatch_echo (b : Block) (e : List Byte) (s : State) : (s.noteMismatch b e).echo = s.echo :=
  rfl
@[simp] theorem State.noteMismatch_rxcnt (b : Block) (e : List Byte) (s : State) : (s.noteMismatch b e).rxcnt = s.rxcnt :=
  rfl
@[simp] theorem State.noteMismatch_blk (b : Block) (e : List Byte) (s : State) : (s.noteMismatch b e).blk = s.blk :=
  rfl
@[simp] theorem State.noteMismatch_idx (b : Block) (e : List Byte) (s : State) : (s.noteMismatch b e).idx = s.idx :=
  rfl
@[simp] theorem State.noteMismatch_fsm (b : Block) (e : List Byte) (s : State) : (s.noteMismatch b e).fsm = s.fsm :=
  rfl
@[simp] theorem State.noteMismatch_dir (b : Block) (e : List Byte) (s : State) : (s.noteMismatch b e).dir = s.dir :=
  rfl
@[simp] theorem State.noteMismatch_seq (b : Block) (e : List Byte) (s : State) : (s.noteMismatch b e).seq = s.seq :=
  rfl
@[simp] theorem State.noteMismatch_vok (b : Block) (e : List Byte) (s : State) : (s.noteMismatch b e).vok = s.vok :=
  rfl
@[simp] theorem State.noteMismatch_recov1 (b : Block) (e : List Byte) (s : State) : (s.noteMismatch b e).recov1 = s.recov1 :=
  rfl
@[simp] theorem State.noteMismatch_recov2 (b : Block) (e : List Byte) (s : State) : (s.noteMismatch b e).recov2 = s.recov2 :=
  rfl
@[simp] theorem State.noteMismatch_underrun (b : Block) (e : List Byte) (s : State) : (s.noteMismatch b e).underrun = s.underrun :=
  rfl
@[simp] theorem State.noteMismatch_err (b : Block) (e : List Byte) (s : State) : (s.noteMismatch b e).err = s.err :=
  rfl
@[simp] theorem State.noteMismatch_erridx (b : Block) (e : List Byte) (s : State) : (s.noteMismatch b e).erridx = s.erridx :=
  rfl
@[simp] theorem State.noteMismatch_mmcnt (b : Block) (e : List Byte) (s : State) : (s.noteMismatch b e).mmcnt = s.mmcnt + 1 :=
  rfl
@[simp] theorem State.noteMismatch_linkOpen (b : Block) (e : List Byte) (s : State) : (s.noteMismatch b e).linkOpen = s.linkOpen :=
  rfl
@[simp] theorem State.noteMismatch_rxq (b : Block) (e : List Byte) (s : State) : (s.noteMismatch b e).rxq = s.rxq :=
  rfl
@[simp] theorem State.noteMismatch_wire (b : Block) (e : List Byte) (s : State) : (s.noteMismatch b e).wire = s.wire :=
  rfl
@[simp] theorem State.noteMismatch_log (b : Block) (e : List Byte) (s : State) : (s.noteMismatch b e).log = s.log ++ [.mismatch b s.idx.toNat s.txb e] :=
  rfl
@[simp] theorem State.noteMismatch_lkres (b : Block) (e : List Byte) (s : State) : (s.noteMismatch b e).lkres = s.lkres :=
  rfl
@[simp] theorem State.noteMismatch_hrd (b : Block) (e : List Byte) (s : State) : (s.noteMismatch b e).hrd = s.hrd :=
  rfl
@[simp] theorem State.noteMismatch_inputs (b : Block) (e : List Byte) (s : State) : (s.noteMismatch b e).inputs = s.inputs :=
  rfl
@[simp] theorem State.noteMismatch_dev (b : Block) (e : List Byte) (s : State) : (s.noteMismatch b e).dev = s.dev :=
  rfl
@[simp] theorem State.noteMismatch_draws (b : Block) (e : List Byte) (s : State) : (s.noteMismatch b e).draws = s.draws :=
  rfl
@[simp] theorem State.noteMismatch_epoch (b : Block) (e : List Byte) (s : State) : (s.noteMismatch b e).epoch = s.epoch :=
  rfl
@[simp] theorem State.noteMismatch_cfg (b : Block) (e : List Byte) (s : State) : (s.noteMismatch b e).cfg = s.cfg :=
  rfl

/-! ### noteQuirk -/

@[simp] theorem State.noteQuirk_img (b : Block) (s : State) : (s.noteQuirk b).img = s.img :=
  by cases b <;> rfl
@[simp] theorem State.noteQuirk_len (b : Block) (s : State) : (s.noteQuirk b).len = s.len :=
  by cases b <;> rfl
@[simp] theorem State.noteQuirk_acc (b : Block) (s : State) : (s.noteQuirk b).acc = s.acc :=
  by cases b <;> rfl
@[simp] theorem State.noteQuirk_txb (b : Block) (s : State) : (s.noteQuirk b).txb = s.txb :=
  by cases b <;> rfl
@[simp] theorem State.noteQuirk_echo (b : Block) (s : State) : (s.noteQuirk b).echo = s.echo :=
  by cases b <;> rfl
@[simp] theorem State.noteQuirk_rxcnt (b : Block) (s : State) : (s.noteQuirk b).rxcnt = s.rxcnt :=
  by cases b <;> rfl
@[simp] theorem State.noteQuirk_blk (b : Block) (s : State) : (s.noteQuirk b).blk = s.blk :=
  by cases b <;> rfl
@[simp] theorem State.noteQuirk_idx (b : Block) (s : State) : (s.noteQuirk b).idx = s.idx :=
  by cases b <;> rfl
@[simp] theorem State.noteQuirk_fsm (b : Block) (s : State) : (s.noteQuirk b).fsm = s.fsm :=
  by cases b <;> rfl
@[simp] theorem State.noteQuirk_dir (b : Block) (s : State) : (s.noteQuirk b).dir = s.dir :=
  by cases b <;> rfl
@[simp] theorem State.noteQuirk_seq (b : Block) (s : State) : (s.noteQuirk b).seq = s.seq :=
  by cases b <;> rfl
@[simp] theorem State.noteQuirk_vok (b : Block) (s : State) : (s.noteQuirk b).vok = s.vok :=
  by cases b <;> rfl
@[simp] theorem State.noteQuirk_underrun (b : Block) (s : State) : (s.noteQuirk b).underrun = s.underrun :=
  by cases b <;> rfl
@[simp] theorem State.noteQuirk_err (b : Block) (s : State) : (s.noteQuirk b).err = s.err :=
  by cases b <;> rfl
@[simp] theorem State.noteQuirk_erridx (b : Block) (s : State) : (s.noteQuirk b).erridx = s.erridx :=
  by cases b <;> rfl
@[simp] theorem State.noteQuirk_mmcnt (b : Block) (s : State) : (s.noteQuirk b).mmcnt = s.mmcnt :=
  by cases b <;> rfl
@[simp] theorem State.noteQuirk_linkOpen (b : Block) (s : State) : (s.noteQuirk b).linkOpen = s.linkOpen :=
  by cases b <;> rfl
@[simp] theorem State.noteQuirk_rxq (b : Block) (s : State) : (s.noteQuirk b).rxq = s.rxq :=
  by cases b <;> rfl
@[simp] theorem State.noteQuirk_wire (b : Block) (s : State) : (s.noteQuirk b).wire = s.wire :=
  by cases b <;> rfl
@[simp] theorem State.noteQuirk_log (b : Block) (s : State) : (s.noteQuirk b).log = s.log ++ [.quirk b s.idx.toNat] :=
  by cases b <;> rfl
@[simp] theorem State.noteQuirk_lkres (b : Block) (s : State) : (s.noteQuirk b).lkres = s.lkres :=
  by cases b <;> rfl
@[simp] theorem State.noteQuirk_hrd (b : Block) (s : State) : (s.noteQuirk b).hrd = s.hrd :=
  by cases b <;> rfl
@[simp] theorem State.noteQuirk_inputs (b : Block) (s : State) : (s.noteQuirk b).inputs = s.inputs :=
  by cases b <;> rfl
@[simp] theorem State.noteQuirk_dev (b : Block) (s : State) : (s.noteQuirk b).dev = s.dev :=
  by cases b <;> rfl
@[simp] theorem State.noteQuirk_draws (b : Block) (s : State) : (s.noteQuirk b).draws = s.draws :=
  by cases b <;> rfl
@[simp] theorem State.noteQuirk_epoch (b : Block) (s : State) : (s.noteQuirk b).epoch = s.epoch :=
  by cases b <;> rfl
@[simp] theorem State.noteQuirk_cfg (b : Block) (s : State) : (s.noteQuirk b).cfg = s.cfg :=
  by cases b <;> rfl

/-! ### noteFatal -/

@[simp] theorem State.noteFatal_img (b : Block) (e : List Byte) (s : State) : (s.noteFatal b e).img = s.img :=
  rfl
@[simp] theorem State.noteFatal_len (b : Block) (e : List Byte) (s : State) : (s.noteFatal b e).len = s.len :=
  rfl
@[simp] theorem State.noteFatal_acc (b : Block) (e : List Byte) (s : State) : (s.noteFatal b e).acc = s.acc :=
  rfl
@[simp] theorem State.noteFatal_txb (b : Block) (e : List Byte) (s : State) : (s.noteFatal b e).txb = s.txb :=
  rfl
@[simp] theorem State.noteFatal_echo (b : Block) (e : List Byte) (s : State) : (s.noteFatal b e).echo = s.echo :=
  rfl
@[simp] theorem State.noteFatal_rxcnt (b : Block) (e : List Byte) (s : State) : (s.noteFatal b e).rxcnt = s.rxcnt :=
  rfl
@[simp] theorem State.noteFatal_blk (b : Block) (e : List Byte) (s : State) : (s.noteFatal b e).blk = s.blk :=
  rfl
@[simp] theorem State.noteFatal_idx (b : Block) (e : List Byte) (s : State) : (s.noteFatal b e).idx = s.idx :=
  rfl
@[simp] theorem State.noteFatal_fsm (b : Block) (e : List Byte) (s : State) : (s.noteFatal b e).fsm = s.fsm :=
  rfl
@[simp] theorem State.noteFatal_dir (b : Block) (e : List Byte) (s : State) : (s.noteFatal b e).dir = s.dir :=
  rfl
@[simp] theorem State.noteFatal_seq (b : Block) (e : List Byte) (s : State) : (s.noteFatal b e).seq = s.seq :=
  rfl
@[simp] theorem State.noteFatal_vok (b : Block) (e : List Byte) (s : State) : (s.noteFatal b e).vok = s.vok :=
  rfl
@[simp] theorem State.noteFatal_recov1 (b : Block) (e : List Byte) (s : State) : (s.noteFatal b e).recov1 = s.recov1 :=
  rfl
@[simp] theorem State.noteFatal_recov2 (b : Block) (e : List Byte) (s : State) : (s.noteFatal b e).recov2 = s.recov2 :=
  rfl
@[simp] theorem State.noteFatal_underrun (b : Block) (e : List Byte) (s : State) : (s.noteFatal b e).underrun = s.underrun :=
  rfl
@[simp] theorem State.noteFatal_err (b : Block) (e : List Byte) (s : State) : (s.noteFatal b e).err = s.err :=
  rfl
@[simp] theorem State.noteFatal_erridx (b : Block) (e : List Byte) (s : State) : (s.noteFatal b e).erridx = s.idx.setWidth 16 :=
  rfl
@[simp] theorem State.noteFatal_mmcnt (b : Block) (e : List Byte) (s : State) : (s.noteFatal b e).mmcnt = s.mmcnt :=
  rfl
@[simp] theorem State.noteFatal_linkOpen (b : Block) (e : List Byte) (s : State) : (s.noteFatal b e).linkOpen = s.linkOpen :=
  rfl
@[simp] theorem State.noteFatal_rxq (b : Block) (e : List Byte) (s : State) : (s.noteFatal b e).rxq = s.rxq :=
  rfl
@[simp] theorem State.noteFatal_wire (b : Block) (e : List Byte) (s : State) : (s.noteFatal b e).wire = s.wire :=
  rfl
@[simp] theorem State.noteFatal_log (b : Block) (e : List Byte) (s : State) : (s.noteFatal b e).log = s.log ++ [.fatal b s.idx.toNat s.txb e] :=
  rfl
@[simp] theorem State.noteFatal_lkres (b : Block) (e : List Byte) (s : State) : (s.noteFatal b e).lkres = s.lkres :=
  rfl
@[simp] theorem State.noteFatal_hrd (b : Block) (e : List Byte) (s : State) : (s.noteFatal b e).hrd = s.hrd :=
  rfl
@[simp] theorem State.noteFatal_inputs (b : Block) (e : List Byte) (s : State) : (s.noteFatal b e).inputs = s.inputs :=
  rfl
@[simp] theorem State.noteFatal_dev (b : Block) (e : List Byte) (s : State) : (s.noteFatal b e).dev = s.dev :=
  rfl
@[simp] theorem State.noteFatal_draws (b : Block) (e : List Byte) (s : State) : (s.noteFatal b e).draws = s.draws :=
  rfl
@[simp] theorem State.noteFatal_epoch (b : Block) (e : List Byte) (s : State) : (s.noteFatal b e).epoch = s.epoch :=
  rfl
@[simp] theorem State.noteFatal_cfg (b : Block) (e : List Byte) (s : State) : (s.noteFatal b e).cfg = s.cfg :=
  rfl

/-! ### dropMove -/

@[simp] theorem State.dropMove_img (s : State) : (s.dropMove).img = s.img :=
  by unfold State.dropMove; split <;> rfl
@[simp] theorem State.dropMove_len (s : State) : (s.dropMove).len = s.len :=
  by unfold State.dropMove; split <;> rfl
@[simp] theorem State.dropMove_acc (s : State) : (s.dropMove).acc = s.acc :=
  by unfold State.dropMove; split <;> rfl
@[simp] theorem State.dropMove_txb (s : State) : (s.dropMove).txb = s.txb :=
  by unfold State.dropMove; split <;> rfl
@[simp] theorem State.dropMove_echo (s : State) : (s.dropMove).echo = s.echo :=
  by unfold State.dropMove; split <;> rfl
@[simp] theorem State.dropMove_rxcnt (s : State) : (s.dropMove).rxcnt = s.rxcnt :=
  by unfold State.dropMove; split <;> rfl
@[simp] theorem State.dropMove_blk (s : State) : (s.dropMove).blk = s.blk :=
  by unfold State.dropMove; split <;> rfl
@[simp] theorem State.dropMove_idx (s : State) : (s.dropMove).idx = s.idx :=
  by unfold State.dropMove; split <;> rfl
@[simp] theorem State.dropMove_fsm (s : State) : (s.dropMove).fsm = s.fsm :=
  by unfold State.dropMove; split <;> rfl
@[simp] theorem State.dropMove_dir (s : State) : (s.dropMove).dir = s.dir :=
  by unfold State.dropMove; split <;> rfl
@[simp] theorem State.dropMove_seq (s : State) : (s.dropMove).seq = s.seq :=
  by unfold State.dropMove; split <;> rfl
@[simp] theorem State.dropMove_vok (s : State) : (s.dropMove).vok = s.vok :=
  by unfold State.dropMove; split <;> rfl
@[simp] theorem State.dropMove_recov1 (s : State) : (s.dropMove).recov1 = s.recov1 :=
  by unfold State.dropMove; split <;> rfl
@[simp] theorem State.dropMove_recov2 (s : State) : (s.dropMove).recov2 = s.recov2 :=
  by unfold State.dropMove; split <;> rfl
@[simp] theorem State.dropMove_underrun (s : State) : (s.dropMove).underrun = s.underrun :=
  by unfold State.dropMove; split <;> rfl
@[simp] theorem State.dropMove_err (s : State) : (s.dropMove).err = s.err :=
  by unfold State.dropMove; split <;> rfl
@[simp] theorem State.dropMove_erridx (s : State) : (s.dropMove).erridx = s.erridx :=
  by unfold State.dropMove; split <;> rfl
@[simp] theorem State.dropMove_mmcnt (s : State) : (s.dropMove).mmcnt = s.mmcnt :=
  by unfold State.dropMove; split <;> rfl
@[simp] theorem State.dropMove_linkOpen (s : State) : (s.dropMove).linkOpen = s.linkOpen :=
  by unfold State.dropMove; split <;> rfl
@[simp] theorem State.dropMove_rxq (s : State) : (s.dropMove).rxq = s.rxq :=
  by unfold State.dropMove; split <;> rfl
@[simp] theorem State.dropMove_wire (s : State) : (s.dropMove).wire = s.wire :=
  by unfold State.dropMove; split <;> rfl
@[simp] theorem State.dropMove_log (s : State) : (s.dropMove).log = s.log :=
  by unfold State.dropMove; split <;> rfl
@[simp] theorem State.dropMove_lkres (s : State) : (s.dropMove).lkres = s.lkres :=
  by unfold State.dropMove; split <;> rfl
@[simp] theorem State.dropMove_hrd (s : State) : (s.dropMove).hrd = s.hrd :=
  by unfold State.dropMove; split <;> rfl
@[simp] theorem State.dropMove_inputs (s : State) : (s.dropMove).inputs = s.inputs :=
  by unfold State.dropMove; split <;> rfl
@[simp] theorem State.dropMove_dev (s : State) : (s.dropMove).dev = s.dev.tail :=
  by unfold State.dropMove; split <;> simp [*]
@[simp] theorem State.dropMove_epoch (s : State) : (s.dropMove).epoch = s.epoch :=
  by unfold State.dropMove; split <;> rfl
@[simp] theorem State.dropMove_cfg (s : State) : (s.dropMove).cfg = s.cfg :=
  by unfold State.dropMove; split <;> rfl

/-! ### arrive -/

@[simp] theorem State.arrive_img (bs : List Byte) (s : State) : (s.arrive bs).img = s.img := rfl
@[simp] theorem State.arrive_len (bs : List Byte) (s : State) : (s.arrive bs).len = s.len := rfl
@[simp] theorem State.arrive_acc (bs : List Byte) (s : State) : (s.arrive bs).acc = s.acc := rfl
@[simp] theorem State.arrive_txb (bs : List Byte) (s : State) : (s.arrive bs).txb = s.txb := rfl
@[simp] theorem State.arrive_echo (bs : List Byte) (s : State) : (s.arrive bs).echo = s.echo := rfl
@[simp] theorem State.arrive_rxcnt (bs : List Byte) (s : State) : (s.arrive bs).rxcnt = s.rxcnt :=
  rfl
@[simp] theorem State.arrive_blk (bs : List Byte) (s : State) : (s.arrive bs).blk = s.blk := rfl
@[simp] theorem State.arrive_idx (bs : List Byte) (s : State) : (s.arrive bs).idx = s.idx := rfl
@[simp] theorem State.arrive_fsm (bs : List Byte) (s : State) : (s.arrive bs).fsm = s.fsm := rfl
@[simp] theorem State.arrive_dir (bs : List Byte) (s : State) : (s.arrive bs).dir = s.dir := rfl
@[simp] theorem State.arrive_seq (bs : List Byte) (s : State) : (s.arrive bs).seq = s.seq := rfl
@[simp] theorem State.arrive_vok (bs : List Byte) (s : State) : (s.arrive bs).vok = s.vok := rfl
@[simp] theorem State.arrive_recov1 (bs : List Byte) (s : State) : (s.arrive bs).recov1 = s.recov1 :=
  rfl
@[simp] theorem State.arrive_recov2 (bs : List Byte) (s : State) : (s.arrive bs).recov2 = s.recov2 :=
  rfl
@[simp] theorem State.arrive_underrun (bs : List Byte) (s : State) : (s.arrive bs).underrun = s.underrun :=
  rfl
@[simp] theorem State.arrive_err (bs : List Byte) (s : State) : (s.arrive bs).err = s.err := rfl
@[simp] theorem State.arrive_erridx (bs : List Byte) (s : State) : (s.arrive bs).erridx = s.erridx :=
  rfl
@[simp] theorem State.arrive_mmcnt (bs : List Byte) (s : State) : (s.arrive bs).mmcnt = s.mmcnt :=
  rfl
@[simp] theorem State.arrive_linkOpen (bs : List Byte) (s : State) : (s.arrive bs).linkOpen = s.linkOpen :=
  rfl
@[simp] theorem State.arrive_rxq (bs : List Byte) (s : State) : (s.arrive bs).rxq = enqueue s.cfg.wMax s.rxq bs :=
  rfl
@[simp] theorem State.arrive_wire (bs : List Byte) (s : State) : (s.arrive bs).wire = s.wire := rfl
@[simp] theorem State.arrive_log (bs : List Byte) (s : State) : (s.arrive bs).log = s.log := rfl
@[simp] theorem State.arrive_lkres (bs : List Byte) (s : State) : (s.arrive bs).lkres = s.lkres :=
  rfl
@[simp] theorem State.arrive_hrd (bs : List Byte) (s : State) : (s.arrive bs).hrd = s.hrd := rfl
@[simp] theorem State.arrive_inputs (bs : List Byte) (s : State) : (s.arrive bs).inputs = s.inputs :=
  rfl
@[simp] theorem State.arrive_dev (bs : List Byte) (s : State) : (s.arrive bs).dev = s.dev := rfl
@[simp] theorem State.arrive_draws (bs : List Byte) (s : State) : (s.arrive bs).draws = s.draws :=
  rfl
@[simp] theorem State.arrive_epoch (bs : List Byte) (s : State) : (s.arrive bs).epoch = s.epoch :=
  rfl
@[simp] theorem State.arrive_cfg (bs : List Byte) (s : State) : (s.arrive bs).cfg = s.cfg := rfl

/-! ### deviceTurn -/

@[simp] theorem State.deviceTurn_img (s : State) : (s.deviceTurn).img = s.img :=
  by simp [State.deviceTurn]
@[simp] theorem State.deviceTurn_len (s : State) : (s.deviceTurn).len = s.len :=
  by simp [State.deviceTurn]
@[simp] theorem State.deviceTurn_acc (s : State) : (s.deviceTurn).acc = s.acc :=
  by simp [State.deviceTurn]
@[simp] theorem State.deviceTurn_txb (s : State) : (s.deviceTurn).txb = s.txb :=
  by simp [State.deviceTurn]
@[simp] theorem State.deviceTurn_echo (s : State) : (s.deviceTurn).echo = s.echo :=
  by simp [State.deviceTurn]
@[simp] theorem State.deviceTurn_rxcnt (s : State) : (s.deviceTurn).rxcnt = s.rxcnt :=
  by simp [State.deviceTurn]
@[simp] theorem State.deviceTurn_blk (s : State) : (s.deviceTurn).blk = s.blk :=
  by simp [State.deviceTurn]
@[simp] theorem State.deviceTurn_idx (s : State) : (s.deviceTurn).idx = s.idx :=
  by simp [State.deviceTurn]
@[simp] theorem State.deviceTurn_fsm (s : State) : (s.deviceTurn).fsm = s.fsm :=
  by simp [State.deviceTurn]
@[simp] theorem State.deviceTurn_dir (s : State) : (s.deviceTurn).dir = s.dir :=
  by simp [State.deviceTurn]
@[simp] theorem State.deviceTurn_seq (s : State) : (s.deviceTurn).seq = s.seq :=
  by simp [State.deviceTurn]
@[simp] theorem State.deviceTurn_vok (s : State) : (s.deviceTurn).vok = s.vok :=
  by simp [State.deviceTurn]
@[simp] theorem State.deviceTurn_recov1 (s : State) : (s.deviceTurn).recov1 = s.recov1 :=
  by simp [State.deviceTurn]
@[simp] theorem State.deviceTurn_recov2 (s : State) : (s.deviceTurn).recov2 = s.recov2 :=
  by simp [State.deviceTurn]
@[simp] theorem State.deviceTurn_underrun (s : State) : (s.deviceTurn).underrun = s.underrun :=
  by simp [State.deviceTurn]
@[simp] theorem State.deviceTurn_err (s : State) : (s.deviceTurn).err = s.err :=
  by simp [State.deviceTurn]
@[simp] theorem State.deviceTurn_erridx (s : State) : (s.deviceTurn).erridx = s.erridx :=
  by simp [State.deviceTurn]
@[simp] theorem State.deviceTurn_mmcnt (s : State) : (s.deviceTurn).mmcnt = s.mmcnt :=
  by simp [State.deviceTurn]
@[simp] theorem State.deviceTurn_linkOpen (s : State) : (s.deviceTurn).linkOpen = s.linkOpen :=
  by simp [State.deviceTurn]
@[simp] theorem State.deviceTurn_rxq (s : State) : (s.deviceTurn).rxq = enqueue s.cfg.wMax s.rxq s.nextMove.arrive :=
  by simp [State.deviceTurn]
@[simp] theorem State.deviceTurn_wire (s : State) : (s.deviceTurn).wire = s.wire :=
  by simp [State.deviceTurn]
@[simp] theorem State.deviceTurn_log (s : State) : (s.deviceTurn).log = s.log :=
  by simp [State.deviceTurn]
@[simp] theorem State.deviceTurn_lkres (s : State) : (s.deviceTurn).lkres = s.lkres :=
  by simp [State.deviceTurn]
@[simp] theorem State.deviceTurn_hrd (s : State) : (s.deviceTurn).hrd = s.hrd :=
  by simp [State.deviceTurn]
@[simp] theorem State.deviceTurn_inputs (s : State) : (s.deviceTurn).inputs = s.inputs :=
  by simp [State.deviceTurn]
@[simp] theorem State.deviceTurn_dev (s : State) : (s.deviceTurn).dev = s.dev.tail :=
  by simp [State.deviceTurn]
@[simp] theorem State.deviceTurn_epoch (s : State) : (s.deviceTurn).epoch = s.epoch :=
  by simp [State.deviceTurn]
@[simp] theorem State.deviceTurn_cfg (s : State) : (s.deviceTurn).cfg = s.cfg :=
  by simp [State.deviceTurn]

/-! ### answer -/

@[simp] theorem State.answer_img (r : LinkResult) (s : State) : (s.answer r).img = s.img := rfl
@[simp] theorem State.answer_len (r : LinkResult) (s : State) : (s.answer r).len = s.len := rfl
@[simp] theorem State.answer_acc (r : LinkResult) (s : State) : (s.answer r).acc = s.acc := rfl
@[simp] theorem State.answer_txb (r : LinkResult) (s : State) : (s.answer r).txb = s.txb := rfl
@[simp] theorem State.answer_echo (r : LinkResult) (s : State) : (s.answer r).echo = s.echo := rfl
@[simp] theorem State.answer_rxcnt (r : LinkResult) (s : State) : (s.answer r).rxcnt = s.rxcnt :=
  rfl
@[simp] theorem State.answer_blk (r : LinkResult) (s : State) : (s.answer r).blk = s.blk := rfl
@[simp] theorem State.answer_idx (r : LinkResult) (s : State) : (s.answer r).idx = s.idx := rfl
@[simp] theorem State.answer_fsm (r : LinkResult) (s : State) : (s.answer r).fsm = s.fsm := rfl
@[simp] theorem State.answer_dir (r : LinkResult) (s : State) : (s.answer r).dir = s.dir := rfl
@[simp] theorem State.answer_seq (r : LinkResult) (s : State) : (s.answer r).seq = s.seq := rfl
@[simp] theorem State.answer_vok (r : LinkResult) (s : State) : (s.answer r).vok = s.vok := rfl
@[simp] theorem State.answer_recov1 (r : LinkResult) (s : State) : (s.answer r).recov1 = s.recov1 :=
  rfl
@[simp] theorem State.answer_recov2 (r : LinkResult) (s : State) : (s.answer r).recov2 = s.recov2 :=
  rfl
@[simp] theorem State.answer_underrun (r : LinkResult) (s : State) : (s.answer r).underrun = s.underrun :=
  rfl
@[simp] theorem State.answer_err (r : LinkResult) (s : State) : (s.answer r).err = s.err := rfl
@[simp] theorem State.answer_erridx (r : LinkResult) (s : State) : (s.answer r).erridx = s.erridx :=
  rfl
@[simp] theorem State.answer_mmcnt (r : LinkResult) (s : State) : (s.answer r).mmcnt = s.mmcnt :=
  rfl
@[simp] theorem State.answer_linkOpen (r : LinkResult) (s : State) : (s.answer r).linkOpen = s.linkOpen :=
  rfl
@[simp] theorem State.answer_rxq (r : LinkResult) (s : State) : (s.answer r).rxq = s.rxq := rfl
@[simp] theorem State.answer_wire (r : LinkResult) (s : State) : (s.answer r).wire = s.wire := rfl
@[simp] theorem State.answer_log (r : LinkResult) (s : State) : (s.answer r).log = s.log := rfl
@[simp] theorem State.answer_lkres (r : LinkResult) (s : State) : (s.answer r).lkres = r := rfl
@[simp] theorem State.answer_hrd (r : LinkResult) (s : State) : (s.answer r).hrd = s.hrd := rfl
@[simp] theorem State.answer_inputs (r : LinkResult) (s : State) : (s.answer r).inputs = s.inputs :=
  rfl
@[simp] theorem State.answer_dev (r : LinkResult) (s : State) : (s.answer r).dev = s.dev := rfl
@[simp] theorem State.answer_draws (r : LinkResult) (s : State) : (s.answer r).draws = s.draws :=
  rfl
@[simp] theorem State.answer_epoch (r : LinkResult) (s : State) : (s.answer r).epoch = s.epoch :=
  rfl
@[simp] theorem State.answer_cfg (r : LinkResult) (s : State) : (s.answer r).cfg = s.cfg := rfl

/-! ### takeBytes -/

@[simp] theorem State.takeBytes_img (n : Nat) (s : State) : (s.takeBytes n).img = s.img := rfl
@[simp] theorem State.takeBytes_len (n : Nat) (s : State) : (s.takeBytes n).len = s.len := rfl
@[simp] theorem State.takeBytes_acc (n : Nat) (s : State) : (s.takeBytes n).acc = s.acc := rfl
@[simp] theorem State.takeBytes_txb (n : Nat) (s : State) : (s.takeBytes n).txb = s.txb := rfl
@[simp] theorem State.takeBytes_echo (n : Nat) (s : State) : (s.takeBytes n).echo = s.echo := rfl
@[simp] theorem State.takeBytes_rxcnt (n : Nat) (s : State) : (s.takeBytes n).rxcnt = s.rxcnt := rfl
@[simp] theorem State.takeBytes_blk (n : Nat) (s : State) : (s.takeBytes n).blk = s.blk := rfl
@[simp] theorem State.takeBytes_idx (n : Nat) (s : State) : (s.takeBytes n).idx = s.idx := rfl
@[simp] theorem State.takeBytes_fsm (n : Nat) (s : State) : (s.takeBytes n).fsm = s.fsm := rfl
@[simp] theorem State.takeBytes_dir (n : Nat) (s : State) : (s.takeBytes n).dir = s.dir := rfl
@[simp] theorem State.takeBytes_seq (n : Nat) (s : State) : (s.takeBytes n).seq = s.seq := rfl
@[simp] theorem State.takeBytes_vok (n : Nat) (s : State) : (s.takeBytes n).vok = s.vok := rfl
@[simp] theorem State.takeBytes_recov1 (n : Nat) (s : State) : (s.takeBytes n).recov1 = s.recov1 :=
  rfl
@[simp] theorem State.takeBytes_recov2 (n : Nat) (s : State) : (s.takeBytes n).recov2 = s.recov2 :=
  rfl
@[simp] theorem State.takeBytes_underrun (n : Nat) (s : State) : (s.takeBytes n).underrun = s.underrun :=
  rfl
@[simp] theorem State.takeBytes_err (n : Nat) (s : State) : (s.takeBytes n).err = s.err := rfl
@[simp] theorem State.takeBytes_erridx (n : Nat) (s : State) : (s.takeBytes n).erridx = s.erridx :=
  rfl
@[simp] theorem State.takeBytes_mmcnt (n : Nat) (s : State) : (s.takeBytes n).mmcnt = s.mmcnt := rfl
@[simp] theorem State.takeBytes_linkOpen (n : Nat) (s : State) : (s.takeBytes n).linkOpen = s.linkOpen :=
  rfl
@[simp] theorem State.takeBytes_rxq (n : Nat) (s : State) : (s.takeBytes n).rxq = s.rxq.drop n :=
  rfl
@[simp] theorem State.takeBytes_wire (n : Nat) (s : State) : (s.takeBytes n).wire = s.wire := rfl
@[simp] theorem State.takeBytes_log (n : Nat) (s : State) : (s.takeBytes n).log = s.log := rfl
@[simp] theorem State.takeBytes_lkres (n : Nat) (s : State) : (s.takeBytes n).lkres = .bytes (s.rxq.take n) :=
  rfl
@[simp] theorem State.takeBytes_hrd (n : Nat) (s : State) : (s.takeBytes n).hrd = s.hrd := rfl
@[simp] theorem State.takeBytes_inputs (n : Nat) (s : State) : (s.takeBytes n).inputs = s.inputs :=
  rfl
@[simp] theorem State.takeBytes_dev (n : Nat) (s : State) : (s.takeBytes n).dev = s.dev := rfl
@[simp] theorem State.takeBytes_draws (n : Nat) (s : State) : (s.takeBytes n).draws = s.draws := rfl
@[simp] theorem State.takeBytes_epoch (n : Nat) (s : State) : (s.takeBytes n).epoch = s.epoch := rfl
@[simp] theorem State.takeBytes_cfg (n : Nat) (s : State) : (s.takeBytes n).cfg = s.cfg := rfl

/-! ### putBytes -/

@[simp] theorem State.putBytes_img (bs : List Byte) (s : State) : (s.putBytes bs).img = s.img := rfl
@[simp] theorem State.putBytes_len (bs : List Byte) (s : State) : (s.putBytes bs).len = s.len := rfl
@[simp] theorem State.putBytes_acc (bs : List Byte) (s : State) : (s.putBytes bs).acc = s.acc := rfl
@[simp] theorem State.putBytes_txb (bs : List Byte) (s : State) : (s.putBytes bs).txb = s.txb := rfl
@[simp] theorem State.putBytes_echo (bs : List Byte) (s : State) : (s.putBytes bs).echo = s.echo :=
  rfl
@[simp] theorem State.putBytes_rxcnt (bs : List Byte) (s : State) : (s.putBytes bs).rxcnt = s.rxcnt :=
  rfl
@[simp] theorem State.putBytes_blk (bs : List Byte) (s : State) : (s.putBytes bs).blk = s.blk := rfl
@[simp] theorem State.putBytes_idx (bs : List Byte) (s : State) : (s.putBytes bs).idx = s.idx := rfl
@[simp] theorem State.putBytes_fsm (bs : List Byte) (s : State) : (s.putBytes bs).fsm = s.fsm := rfl
@[simp] theorem State.putBytes_dir (bs : List Byte) (s : State) : (s.putBytes bs).dir = s.dir := rfl
@[simp] theorem State.putBytes_seq (bs : List Byte) (s : State) : (s.putBytes bs).seq = s.seq := rfl
@[simp] theorem State.putBytes_vok (bs : List Byte) (s : State) : (s.putBytes bs).vok = s.vok := rfl
@[simp] theorem State.putBytes_recov1 (bs : List Byte) (s : State) : (s.putBytes bs).recov1 = s.recov1 :=
  rfl
@[simp] theorem State.putBytes_recov2 (bs : List Byte) (s : State) : (s.putBytes bs).recov2 = s.recov2 :=
  rfl
@[simp] theorem State.putBytes_underrun (bs : List Byte) (s : State) : (s.putBytes bs).underrun = s.underrun :=
  rfl
@[simp] theorem State.putBytes_err (bs : List Byte) (s : State) : (s.putBytes bs).err = s.err := rfl
@[simp] theorem State.putBytes_erridx (bs : List Byte) (s : State) : (s.putBytes bs).erridx = s.erridx :=
  rfl
@[simp] theorem State.putBytes_mmcnt (bs : List Byte) (s : State) : (s.putBytes bs).mmcnt = s.mmcnt :=
  rfl
@[simp] theorem State.putBytes_linkOpen (bs : List Byte) (s : State) : (s.putBytes bs).linkOpen = s.linkOpen :=
  rfl
@[simp] theorem State.putBytes_rxq (bs : List Byte) (s : State) : (s.putBytes bs).rxq = s.rxq := rfl
@[simp] theorem State.putBytes_wire (bs : List Byte) (s : State) : (s.putBytes bs).wire = s.wire ++ bs.map .byte :=
  rfl
@[simp] theorem State.putBytes_log (bs : List Byte) (s : State) : (s.putBytes bs).log = s.log := rfl
@[simp] theorem State.putBytes_lkres (bs : List Byte) (s : State) : (s.putBytes bs).lkres = .done :=
  rfl
@[simp] theorem State.putBytes_hrd (bs : List Byte) (s : State) : (s.putBytes bs).hrd = s.hrd := rfl
@[simp] theorem State.putBytes_inputs (bs : List Byte) (s : State) : (s.putBytes bs).inputs = s.inputs :=
  rfl
@[simp] theorem State.putBytes_dev (bs : List Byte) (s : State) : (s.putBytes bs).dev = s.dev := rfl
@[simp] theorem State.putBytes_draws (bs : List Byte) (s : State) : (s.putBytes bs).draws = s.draws :=
  rfl
@[simp] theorem State.putBytes_epoch (bs : List Byte) (s : State) : (s.putBytes bs).epoch = s.epoch :=
  rfl
@[simp] theorem State.putBytes_cfg (bs : List Byte) (s : State) : (s.putBytes bs).cfg = s.cfg := rfl

/-! ### putBreak -/

@[simp] theorem State.putBreak_img (d : Duration) (s : State) : (s.putBreak d).img = s.img := rfl
@[simp] theorem State.putBreak_len (d : Duration) (s : State) : (s.putBreak d).len = s.len := rfl
@[simp] theorem State.putBreak_acc (d : Duration) (s : State) : (s.putBreak d).acc = s.acc := rfl
@[simp] theorem State.putBreak_txb (d : Duration) (s : State) : (s.putBreak d).txb = s.txb := rfl
@[simp] theorem State.putBreak_echo (d : Duration) (s : State) : (s.putBreak d).echo = s.echo := rfl
@[simp] theorem State.putBreak_rxcnt (d : Duration) (s : State) : (s.putBreak d).rxcnt = s.rxcnt :=
  rfl
@[simp] theorem State.putBreak_blk (d : Duration) (s : State) : (s.putBreak d).blk = s.blk := rfl
@[simp] theorem State.putBreak_idx (d : Duration) (s : State) : (s.putBreak d).idx = s.idx := rfl
@[simp] theorem State.putBreak_fsm (d : Duration) (s : State) : (s.putBreak d).fsm = s.fsm := rfl
@[simp] theorem State.putBreak_dir (d : Duration) (s : State) : (s.putBreak d).dir = s.dir := rfl
@[simp] theorem State.putBreak_seq (d : Duration) (s : State) : (s.putBreak d).seq = s.seq := rfl
@[simp] theorem State.putBreak_vok (d : Duration) (s : State) : (s.putBreak d).vok = s.vok := rfl
@[simp] theorem State.putBreak_recov1 (d : Duration) (s : State) : (s.putBreak d).recov1 = s.recov1 :=
  rfl
@[simp] theorem State.putBreak_recov2 (d : Duration) (s : State) : (s.putBreak d).recov2 = s.recov2 :=
  rfl
@[simp] theorem State.putBreak_underrun (d : Duration) (s : State) : (s.putBreak d).underrun = s.underrun :=
  rfl
@[simp] theorem State.putBreak_err (d : Duration) (s : State) : (s.putBreak d).err = s.err := rfl
@[simp] theorem State.putBreak_erridx (d : Duration) (s : State) : (s.putBreak d).erridx = s.erridx :=
  rfl
@[simp] theorem State.putBreak_mmcnt (d : Duration) (s : State) : (s.putBreak d).mmcnt = s.mmcnt :=
  rfl
@[simp] theorem State.putBreak_linkOpen (d : Duration) (s : State) : (s.putBreak d).linkOpen = s.linkOpen :=
  rfl
@[simp] theorem State.putBreak_rxq (d : Duration) (s : State) : (s.putBreak d).rxq = s.rxq := rfl
@[simp] theorem State.putBreak_wire (d : Duration) (s : State) : (s.putBreak d).wire = s.wire ++ [.brk d] :=
  rfl
@[simp] theorem State.putBreak_log (d : Duration) (s : State) : (s.putBreak d).log = s.log := rfl
@[simp] theorem State.putBreak_lkres (d : Duration) (s : State) : (s.putBreak d).lkres = .done :=
  rfl
@[simp] theorem State.putBreak_hrd (d : Duration) (s : State) : (s.putBreak d).hrd = s.hrd := rfl
@[simp] theorem State.putBreak_inputs (d : Duration) (s : State) : (s.putBreak d).inputs = s.inputs :=
  rfl
@[simp] theorem State.putBreak_dev (d : Duration) (s : State) : (s.putBreak d).dev = s.dev := rfl
@[simp] theorem State.putBreak_draws (d : Duration) (s : State) : (s.putBreak d).draws = s.draws :=
  rfl
@[simp] theorem State.putBreak_epoch (d : Duration) (s : State) : (s.putBreak d).epoch = s.epoch :=
  rfl
@[simp] theorem State.putBreak_cfg (d : Duration) (s : State) : (s.putBreak d).cfg = s.cfg := rfl

/-! ### countWaiting -/

@[simp] theorem State.countWaiting_img (s : State) : (s.countWaiting).img = s.img := rfl
@[simp] theorem State.countWaiting_len (s : State) : (s.countWaiting).len = s.len := rfl
@[simp] theorem State.countWaiting_acc (s : State) : (s.countWaiting).acc = s.acc := rfl
@[simp] theorem State.countWaiting_txb (s : State) : (s.countWaiting).txb = s.txb := rfl
@[simp] theorem State.countWaiting_echo (s : State) : (s.countWaiting).echo = s.echo := rfl
@[simp] theorem State.countWaiting_rxcnt (s : State) : (s.countWaiting).rxcnt = s.rxcnt := rfl
@[simp] theorem State.countWaiting_blk (s : State) : (s.countWaiting).blk = s.blk := rfl
@[simp] theorem State.countWaiting_idx (s : State) : (s.countWaiting).idx = s.idx := rfl
@[simp] theorem State.countWaiting_fsm (s : State) : (s.countWaiting).fsm = s.fsm := rfl
@[simp] theorem State.countWaiting_dir (s : State) : (s.countWaiting).dir = s.dir := rfl
@[simp] theorem State.countWaiting_seq (s : State) : (s.countWaiting).seq = s.seq := rfl
@[simp] theorem State.countWaiting_vok (s : State) : (s.countWaiting).vok = s.vok := rfl
@[simp] theorem State.countWaiting_recov1 (s : State) : (s.countWaiting).recov1 = s.recov1 := rfl
@[simp] theorem State.countWaiting_recov2 (s : State) : (s.countWaiting).recov2 = s.recov2 := rfl
@[simp] theorem State.countWaiting_underrun (s : State) : (s.countWaiting).underrun = s.underrun :=
  rfl
@[simp] theorem State.countWaiting_err (s : State) : (s.countWaiting).err = s.err := rfl
@[simp] theorem State.countWaiting_erridx (s : State) : (s.countWaiting).erridx = s.erridx := rfl
@[simp] theorem State.countWaiting_mmcnt (s : State) : (s.countWaiting).mmcnt = s.mmcnt := rfl
@[simp] theorem State.countWaiting_linkOpen (s : State) : (s.countWaiting).linkOpen = s.linkOpen :=
  rfl
@[simp] theorem State.countWaiting_rxq (s : State) : (s.countWaiting).rxq = s.rxq := rfl
@[simp] theorem State.countWaiting_wire (s : State) : (s.countWaiting).wire = s.wire := rfl
@[simp] theorem State.countWaiting_log (s : State) : (s.countWaiting).log = s.log := rfl
@[simp] theorem State.countWaiting_lkres (s : State) : (s.countWaiting).lkres = .count s.rxq.length :=
  rfl
@[simp] theorem State.countWaiting_hrd (s : State) : (s.countWaiting).hrd = s.hrd := rfl
@[simp] theorem State.countWaiting_inputs (s : State) : (s.countWaiting).inputs = s.inputs := rfl
@[simp] theorem State.countWaiting_dev (s : State) : (s.countWaiting).dev = s.dev := rfl
@[simp] theorem State.countWaiting_draws (s : State) : (s.countWaiting).draws = s.draws := rfl
@[simp] theorem State.countWaiting_epoch (s : State) : (s.countWaiting).epoch = s.epoch := rfl
@[simp] theorem State.countWaiting_cfg (s : State) : (s.countWaiting).cfg = s.cfg := rfl

/-! ### dropInput -/

@[simp] theorem State.dropInput_img (s : State) : (s.dropInput).img = s.img := rfl
@[simp] theorem State.dropInput_len (s : State) : (s.dropInput).len = s.len := rfl
@[simp] theorem State.dropInput_acc (s : State) : (s.dropInput).acc = s.acc := rfl
@[simp] theorem State.dropInput_txb (s : State) : (s.dropInput).txb = s.txb := rfl
@[simp] theorem State.dropInput_echo (s : State) : (s.dropInput).echo = s.echo := rfl
@[simp] theorem State.dropInput_rxcnt (s : State) : (s.dropInput).rxcnt = s.rxcnt := rfl
@[simp] theorem State.dropInput_blk (s : State) : (s.dropInput).blk = s.blk := rfl
@[simp] theorem State.dropInput_idx (s : State) : (s.dropInput).idx = s.idx := rfl
@[simp] theorem State.dropInput_fsm (s : State) : (s.dropInput).fsm = s.fsm := rfl
@[simp] theorem State.dropInput_dir (s : State) : (s.dropInput).dir = s.dir := rfl
@[simp] theorem State.dropInput_seq (s : State) : (s.dropInput).seq = s.seq := rfl
@[simp] theorem State.dropInput_vok (s : State) : (s.dropInput).vok = s.vok := rfl
@[simp] theorem State.dropInput_recov1 (s : State) : (s.dropInput).recov1 = s.recov1 := rfl
@[simp] theorem State.dropInput_recov2 (s : State) : (s.dropInput).recov2 = s.recov2 := rfl
@[simp] theorem State.dropInput_underrun (s : State) : (s.dropInput).underrun = s.underrun := rfl
@[simp] theorem State.dropInput_err (s : State) : (s.dropInput).err = s.err := rfl
@[simp] theorem State.dropInput_erridx (s : State) : (s.dropInput).erridx = s.erridx := rfl
@[simp] theorem State.dropInput_mmcnt (s : State) : (s.dropInput).mmcnt = s.mmcnt := rfl
@[simp] theorem State.dropInput_linkOpen (s : State) : (s.dropInput).linkOpen = s.linkOpen := rfl
@[simp] theorem State.dropInput_rxq (s : State) : (s.dropInput).rxq = [] := rfl
@[simp] theorem State.dropInput_wire (s : State) : (s.dropInput).wire = s.wire := rfl
@[simp] theorem State.dropInput_log (s : State) : (s.dropInput).log = s.log := rfl
@[simp] theorem State.dropInput_lkres (s : State) : (s.dropInput).lkres = .done := rfl
@[simp] theorem State.dropInput_hrd (s : State) : (s.dropInput).hrd = s.hrd := rfl
@[simp] theorem State.dropInput_inputs (s : State) : (s.dropInput).inputs = s.inputs := rfl
@[simp] theorem State.dropInput_dev (s : State) : (s.dropInput).dev = s.dev := rfl
@[simp] theorem State.dropInput_draws (s : State) : (s.dropInput).draws = s.draws := rfl
@[simp] theorem State.dropInput_epoch (s : State) : (s.dropInput).epoch = s.epoch := rfl
@[simp] theorem State.dropInput_cfg (s : State) : (s.dropInput).cfg = s.cfg := rfl

/-! ### openPort -/

@[simp] theorem State.openPort_img (s : State) : (s.openPort).img = s.img :=
  by unfold State.openPort; split <;> simp
@[simp] theorem State.openPort_len (s : State) : (s.openPort).len = s.len :=
  by unfold State.openPort; split <;> simp
@[simp] theorem State.openPort_acc (s : State) : (s.openPort).acc = s.acc :=
  by unfold State.openPort; split <;> simp
@[simp] theorem State.openPort_txb (s : State) : (s.openPort).txb = s.txb :=
  by unfold State.openPort; split <;> simp
@[simp] theorem State.openPort_echo (s : State) : (s.openPort).echo = s.echo :=
  by unfold State.openPort; split <;> simp
@[simp] theorem State.openPort_rxcnt (s : State) : (s.openPort).rxcnt = s.rxcnt :=
  by unfold State.openPort; split <;> simp
@[simp] theorem State.openPort_blk (s : State) : (s.openPort).blk = s.blk :=
  by unfold State.openPort; split <;> simp
@[simp] theorem State.openPort_idx (s : State) : (s.openPort).idx = s.idx :=
  by unfold State.openPort; split <;> simp
@[simp] theorem State.openPort_fsm (s : State) : (s.openPort).fsm = s.fsm :=
  by unfold State.openPort; split <;> simp
@[simp] theorem State.openPort_dir (s : State) : (s.openPort).dir = s.dir :=
  by unfold State.openPort; split <;> simp
@[simp] theorem State.openPort_seq (s : State) : (s.openPort).seq = s.seq :=
  by unfold State.openPort; split <;> simp
@[simp] theorem State.openPort_vok (s : State) : (s.openPort).vok = s.vok :=
  by unfold State.openPort; split <;> simp
@[simp] theorem State.openPort_recov1 (s : State) : (s.openPort).recov1 = s.recov1 :=
  by unfold State.openPort; split <;> simp
@[simp] theorem State.openPort_recov2 (s : State) : (s.openPort).recov2 = s.recov2 :=
  by unfold State.openPort; split <;> simp
@[simp] theorem State.openPort_underrun (s : State) : (s.openPort).underrun = s.underrun :=
  by unfold State.openPort; split <;> simp
@[simp] theorem State.openPort_err (s : State) : (s.openPort).err = s.err :=
  by unfold State.openPort; split <;> simp
@[simp] theorem State.openPort_erridx (s : State) : (s.openPort).erridx = s.erridx :=
  by unfold State.openPort; split <;> simp
@[simp] theorem State.openPort_mmcnt (s : State) : (s.openPort).mmcnt = s.mmcnt :=
  by unfold State.openPort; split <;> simp
@[simp] theorem State.openPort_wire (s : State) : (s.openPort).wire = s.wire :=
  by unfold State.openPort; split <;> simp
@[simp] theorem State.openPort_log (s : State) : (s.openPort).log = s.log :=
  by unfold State.openPort; split <;> simp
@[simp] theorem State.openPort_hrd (s : State) : (s.openPort).hrd = s.hrd :=
  by unfold State.openPort; split <;> simp
@[simp] theorem State.openPort_inputs (s : State) : (s.openPort).inputs = s.inputs :=
  by unfold State.openPort; split <;> simp
@[simp] theorem State.openPort_dev (s : State) : (s.openPort).dev = s.dev.tail :=
  by unfold State.openPort; split <;> simp
@[simp] theorem State.openPort_epoch (s : State) : (s.openPort).epoch = s.epoch :=
  by unfold State.openPort; split <;> simp
@[simp] theorem State.openPort_cfg (s : State) : (s.openPort).cfg = s.cfg :=
  by unfold State.openPort; split <;> simp

/-! ### closePort -/

@[simp] theorem State.closePort_img (s : State) : (s.closePort).img = s.img :=
  by unfold State.closePort; split <;> rfl
@[simp] theorem State.closePort_len (s : State) : (s.closePort).len = s.len :=
  by unfold State.closePort; split <;> rfl
@[simp] theorem State.closePort_acc (s : State) : (s.closePort).acc = s.acc :=
  by unfold State.closePort; split <;> rfl
@[simp] theorem State.closePort_txb (s : State) : (s.closePort).txb = s.txb :=
  by unfold State.closePort; split <;> rfl
@[simp] theorem State.closePort_echo (s : State) : (s.closePort).echo = s.echo :=
  by unfold State.closePort; split <;> rfl
@[simp] theorem State.closePort_rxcnt (s : State) : (s.closePort).rxcnt = s.rxcnt :=
  by unfold State.closePort; split <;> rfl
@[simp] theorem State.closePort_blk (s : State) : (s.closePort).blk = s.blk :=
  by unfold State.closePort; split <;> rfl
@[simp] theorem State.closePort_idx (s : State) : (s.closePort).idx = s.idx :=
  by unfold State.closePort; split <;> rfl
@[simp] theorem State.closePort_fsm (s : State) : (s.closePort).fsm = s.fsm :=
  by unfold State.closePort; split <;> rfl
@[simp] theorem State.closePort_dir (s : State) : (s.closePort).dir = s.dir :=
  by unfold State.closePort; split <;> rfl
@[simp] theorem State.closePort_seq (s : State) : (s.closePort).seq = s.seq :=
  by unfold State.closePort; split <;> rfl
@[simp] theorem State.closePort_vok (s : State) : (s.closePort).vok = s.vok :=
  by unfold State.closePort; split <;> rfl
@[simp] theorem State.closePort_recov1 (s : State) : (s.closePort).recov1 = s.recov1 :=
  by unfold State.closePort; split <;> rfl
@[simp] theorem State.closePort_recov2 (s : State) : (s.closePort).recov2 = s.recov2 :=
  by unfold State.closePort; split <;> rfl
@[simp] theorem State.closePort_underrun (s : State) : (s.closePort).underrun = s.underrun :=
  by unfold State.closePort; split <;> rfl
@[simp] theorem State.closePort_err (s : State) : (s.closePort).err = s.err :=
  by unfold State.closePort; split <;> rfl
@[simp] theorem State.closePort_erridx (s : State) : (s.closePort).erridx = s.erridx :=
  by unfold State.closePort; split <;> rfl
@[simp] theorem State.closePort_mmcnt (s : State) : (s.closePort).mmcnt = s.mmcnt :=
  by unfold State.closePort; split <;> rfl
@[simp] theorem State.closePort_linkOpen (s : State) : (s.closePort).linkOpen = false :=
  by unfold State.closePort; split <;> simp_all [State.answer]
@[simp] theorem State.closePort_wire (s : State) : (s.closePort).wire = s.wire :=
  by unfold State.closePort; split <;> rfl
@[simp] theorem State.closePort_log (s : State) : (s.closePort).log = s.log :=
  by unfold State.closePort; split <;> rfl
@[simp] theorem State.closePort_lkres (s : State) : (s.closePort).lkres = .done :=
  by unfold State.closePort; split <;> rfl
@[simp] theorem State.closePort_hrd (s : State) : (s.closePort).hrd = s.hrd :=
  by unfold State.closePort; split <;> rfl
@[simp] theorem State.closePort_inputs (s : State) : (s.closePort).inputs = s.inputs :=
  by unfold State.closePort; split <;> rfl
@[simp] theorem State.closePort_dev (s : State) : (s.closePort).dev = s.dev :=
  by unfold State.closePort; split <;> rfl
@[simp] theorem State.closePort_epoch (s : State) : (s.closePort).epoch = s.epoch :=
  by unfold State.closePort; split <;> rfl
@[simp] theorem State.closePort_cfg (s : State) : (s.closePort).cfg = s.cfg :=
  by unfold State.closePort; split <;> rfl

/-! ### delay -/

@[simp] theorem State.delay_img (s : State) : (s.delay).img = s.img := by simp [State.delay]
@[simp] theorem State.delay_len (s : State) : (s.delay).len = s.len := by simp [State.delay]
@[simp] theorem State.delay_acc (s : State) : (s.delay).acc = s.acc := by simp [State.delay]
@[simp] theorem State.delay_txb (s : State) : (s.delay).txb = s.txb := by simp [State.delay]
@[simp] theorem State.delay_echo (s : State) : (s.delay).echo = s.echo := by simp [State.delay]
@[simp] theorem State.delay_rxcnt (s : State) : (s.delay).rxcnt = s.rxcnt := by simp [State.delay]
@[simp] theorem State.delay_blk (s : State) : (s.delay).blk = s.blk := by simp [State.delay]
@[simp] theorem State.delay_idx (s : State) : (s.delay).idx = s.idx := by simp [State.delay]
@[simp] theorem State.delay_fsm (s : State) : (s.delay).fsm = s.fsm := by simp [State.delay]
@[simp] theorem State.delay_dir (s : State) : (s.delay).dir = s.dir := by simp [State.delay]
@[simp] theorem State.delay_seq (s : State) : (s.delay).seq = s.seq := by simp [State.delay]
@[simp] theorem State.delay_vok (s : State) : (s.delay).vok = s.vok := by simp [State.delay]
@[simp] theorem State.delay_recov1 (s : State) : (s.delay).recov1 = s.recov1 :=
  by simp [State.delay]
@[simp] theorem State.delay_recov2 (s : State) : (s.delay).recov2 = s.recov2 :=
  by simp [State.delay]
@[simp] theorem State.delay_underrun (s : State) : (s.delay).underrun = s.underrun :=
  by simp [State.delay]
@[simp] theorem State.delay_err (s : State) : (s.delay).err = s.err := by simp [State.delay]
@[simp] theorem State.delay_erridx (s : State) : (s.delay).erridx = s.erridx :=
  by simp [State.delay]
@[simp] theorem State.delay_mmcnt (s : State) : (s.delay).mmcnt = s.mmcnt := by simp [State.delay]
@[simp] theorem State.delay_linkOpen (s : State) : (s.delay).linkOpen = s.linkOpen :=
  by simp [State.delay]
@[simp] theorem State.delay_rxq (s : State) : (s.delay).rxq = enqueue s.cfg.wMax s.rxq s.nextMove.arrive :=
  by simp [State.delay]
@[simp] theorem State.delay_wire (s : State) : (s.delay).wire = s.wire := by simp [State.delay]
@[simp] theorem State.delay_log (s : State) : (s.delay).log = s.log := by simp [State.delay]
@[simp] theorem State.delay_lkres (s : State) : (s.delay).lkres = s.lkres := by simp [State.delay]
@[simp] theorem State.delay_hrd (s : State) : (s.delay).hrd = s.hrd := by simp [State.delay]
@[simp] theorem State.delay_inputs (s : State) : (s.delay).inputs = s.inputs :=
  by simp [State.delay]
@[simp] theorem State.delay_dev (s : State) : (s.delay).dev = s.dev.tail := by simp [State.delay]
@[simp] theorem State.delay_epoch (s : State) : (s.delay).epoch = s.epoch := by simp [State.delay]
@[simp] theorem State.delay_cfg (s : State) : (s.delay).cfg = s.cfg := by simp [State.delay]

/-! ### doReset -/

@[simp] theorem State.doReset_img (s : State) : (s.doReset).img = State.reset.img := rfl
@[simp] theorem State.doReset_len (s : State) : (s.doReset).len = State.reset.len := rfl
@[simp] theorem State.doReset_acc (s : State) : (s.doReset).acc = State.reset.acc := rfl
@[simp] theorem State.doReset_txb (s : State) : (s.doReset).txb = State.reset.txb := rfl
@[simp] theorem State.doReset_echo (s : State) : (s.doReset).echo = State.reset.echo := rfl
@[simp] theorem State.doReset_rxcnt (s : State) : (s.doReset).rxcnt = State.reset.rxcnt := rfl
@[simp] theorem State.doReset_blk (s : State) : (s.doReset).blk = State.reset.blk := rfl
@[simp] theorem State.doReset_idx (s : State) : (s.doReset).idx = State.reset.idx := rfl
@[simp] theorem State.doReset_fsm (s : State) : (s.doReset).fsm = State.reset.fsm := rfl
@[simp] theorem State.doReset_dir (s : State) : (s.doReset).dir = State.reset.dir := rfl
@[simp] theorem State.doReset_seq (s : State) : (s.doReset).seq = State.reset.seq := rfl
@[simp] theorem State.doReset_vok (s : State) : (s.doReset).vok = State.reset.vok := rfl
@[simp] theorem State.doReset_recov1 (s : State) : (s.doReset).recov1 = State.reset.recov1 := rfl
@[simp] theorem State.doReset_recov2 (s : State) : (s.doReset).recov2 = State.reset.recov2 := rfl
@[simp] theorem State.doReset_underrun (s : State) : (s.doReset).underrun = State.reset.underrun :=
  rfl
@[simp] theorem State.doReset_err (s : State) : (s.doReset).err = State.reset.err := rfl
@[simp] theorem State.doReset_erridx (s : State) : (s.doReset).erridx = State.reset.erridx := rfl
@[simp] theorem State.doReset_mmcnt (s : State) : (s.doReset).mmcnt = State.reset.mmcnt := rfl
@[simp] theorem State.doReset_linkOpen (s : State) : (s.doReset).linkOpen = State.reset.linkOpen :=
  rfl
@[simp] theorem State.doReset_rxq (s : State) : (s.doReset).rxq = State.reset.rxq := rfl
@[simp] theorem State.doReset_wire (s : State) : (s.doReset).wire = State.reset.wire := rfl
@[simp] theorem State.doReset_log (s : State) : (s.doReset).log = State.reset.log := rfl
@[simp] theorem State.doReset_lkres (s : State) : (s.doReset).lkres = State.reset.lkres := rfl
@[simp] theorem State.doReset_hrd (s : State) : (s.doReset).hrd = s.hrd := rfl
@[simp] theorem State.doReset_inputs (s : State) : (s.doReset).inputs = s.inputs := rfl
@[simp] theorem State.doReset_dev (s : State) : (s.doReset).dev = s.dev := rfl
@[simp] theorem State.doReset_draws (s : State) : (s.doReset).draws = s.draws := rfl
@[simp] theorem State.doReset_epoch (s : State) : (s.doReset).epoch = s.epoch + 1 := rfl
@[simp] theorem State.doReset_cfg (s : State) : (s.doReset).cfg = s.cfg := rfl

/-! ### enter -/

@[simp] theorem State.enter_img (s : State) : (s.enter).img = s.img :=
  by unfold State.enter; split <;> first | rfl | (dsimp only; split <;> rfl)
@[simp] theorem State.enter_len (s : State) : (s.enter).len = s.len :=
  by unfold State.enter; split <;> first | rfl | (dsimp only; split <;> rfl)
@[simp] theorem State.enter_acc (s : State) : (s.enter).acc = s.acc :=
  by unfold State.enter; split <;> first | rfl | (dsimp only; split <;> rfl)
@[simp] theorem State.enter_echo (s : State) : (s.enter).echo = s.echo :=
  by unfold State.enter; split <;> first | rfl | (dsimp only; split <;> rfl)
@[simp] theorem State.enter_rxcnt (s : State) : (s.enter).rxcnt = s.rxcnt :=
  by unfold State.enter; split <;> first | rfl | (dsimp only; split <;> rfl)
@[simp] theorem State.enter_dir (s : State) : (s.enter).dir = s.dir :=
  by unfold State.enter; split <;> first | rfl | (dsimp only; split <;> rfl)
@[simp] theorem State.enter_seq (s : State) : (s.enter).seq = s.seq :=
  by unfold State.enter; split <;> first | rfl | (dsimp only; split <;> rfl)
@[simp] theorem State.enter_vok (s : State) : (s.enter).vok = s.vok :=
  by unfold State.enter; split <;> first | rfl | (dsimp only; split <;> rfl)
@[simp] theorem State.enter_recov1 (s : State) : (s.enter).recov1 = s.recov1 :=
  by unfold State.enter; split <;> first | rfl | (dsimp only; split <;> rfl)
@[simp] theorem State.enter_recov2 (s : State) : (s.enter).recov2 = s.recov2 :=
  by unfold State.enter; split <;> first | rfl | (dsimp only; split <;> rfl)
@[simp] theorem State.enter_underrun (s : State) : (s.enter).underrun = s.underrun :=
  by unfold State.enter; split <;> first | rfl | (dsimp only; split <;> rfl)
@[simp] theorem State.enter_err (s : State) : (s.enter).err = s.err :=
  by unfold State.enter; split <;> first | rfl | (dsimp only; split <;> rfl)
@[simp] theorem State.enter_erridx (s : State) : (s.enter).erridx = s.erridx :=
  by unfold State.enter; split <;> first | rfl | (dsimp only; split <;> rfl)
@[simp] theorem State.enter_mmcnt (s : State) : (s.enter).mmcnt = s.mmcnt :=
  by unfold State.enter; split <;> first | rfl | (dsimp only; split <;> rfl)
@[simp] theorem State.enter_linkOpen (s : State) : (s.enter).linkOpen = s.linkOpen :=
  by unfold State.enter; split <;> first | rfl | (dsimp only; split <;> rfl)
@[simp] theorem State.enter_rxq (s : State) : (s.enter).rxq = s.rxq :=
  by unfold State.enter; split <;> first | rfl | (dsimp only; split <;> rfl)
@[simp] theorem State.enter_wire (s : State) : (s.enter).wire = s.wire :=
  by unfold State.enter; split <;> first | rfl | (dsimp only; split <;> rfl)
@[simp] theorem State.enter_log (s : State) : (s.enter).log = s.log :=
  by unfold State.enter; split <;> first | rfl | (dsimp only; split <;> rfl)
@[simp] theorem State.enter_lkres (s : State) : (s.enter).lkres = s.lkres :=
  by unfold State.enter; split <;> first | rfl | (dsimp only; split <;> rfl)
@[simp] theorem State.enter_hrd (s : State) : (s.enter).hrd = s.hrd :=
  by unfold State.enter; split <;> first | rfl | (dsimp only; split <;> rfl)
@[simp] theorem State.enter_inputs (s : State) : (s.enter).inputs = s.inputs :=
  by unfold State.enter; split <;> first | rfl | (dsimp only; split <;> rfl)
@[simp] theorem State.enter_dev (s : State) : (s.enter).dev = s.dev :=
  by unfold State.enter; split <;> first | rfl | (dsimp only; split <;> rfl)
@[simp] theorem State.enter_draws (s : State) : (s.enter).draws = s.draws :=
  by unfold State.enter; split <;> first | rfl | (dsimp only; split <;> rfl)
@[simp] theorem State.enter_epoch (s : State) : (s.enter).epoch = s.epoch :=
  by unfold State.enter; split <;> first | rfl | (dsimp only; split <;> rfl)
@[simp] theorem State.enter_cfg (s : State) : (s.enter).cfg = s.cfg :=
  by unfold State.enter; split <;> first | rfl | (dsimp only; split <;> rfl)

/-! ### correctRegion -/

@[simp] theorem State.correctRegion_len (r : Region) (s : State) : (s.correctRegion r).len = s.len :=
  by unfold State.correctRegion; dsimp only; split <;> rfl
@[simp] theorem State.correctRegion_acc (r : Region) (s : State) : (s.correctRegion r).acc = s.computed r :=
  by unfold State.correctRegion; dsimp only; split <;> rfl
@[simp] theorem State.correctRegion_txb (r : Region) (s : State) : (s.correctRegion r).txb = s.txb :=
  by unfold State.correctRegion; dsimp only; split <;> rfl
@[simp] theorem State.correctRegion_echo (r : Region) (s : State) : (s.correctRegion r).echo = s.echo :=
  by unfold State.correctRegion; dsimp only; split <;> rfl
@[simp] theorem State.correctRegion_rxcnt (r : Region) (s : State) : (s.correctRegion r).rxcnt = s.rxcnt :=
  by unfold State.correctRegion; dsimp only; split <;> rfl
@[simp] theorem State.correctRegion_blk (r : Region) (s : State) : (s.correctRegion r).blk = s.blk :=
  by unfold State.correctRegion; dsimp only; split <;> rfl
@[simp] theorem State.correctRegion_idx (r : Region) (s : State) : (s.correctRegion r).idx = s.idx :=
  by unfold State.correctRegion; dsimp only; split <;> rfl
@[simp] theorem State.correctRegion_fsm (r : Region) (s : State) : (s.correctRegion r).fsm = s.fsm :=
  by unfold State.correctRegion; dsimp only; split <;> rfl
@[simp] theorem State.correctRegion_dir (r : Region) (s : State) : (s.correctRegion r).dir = s.dir :=
  by unfold State.correctRegion; dsimp only; split <;> rfl
@[simp] theorem State.correctRegion_seq (r : Region) (s : State) : (s.correctRegion r).seq = s.seq :=
  by unfold State.correctRegion; dsimp only; split <;> rfl
@[simp] theorem State.correctRegion_vok (r : Region) (s : State) : (s.correctRegion r).vok = s.vok :=
  by unfold State.correctRegion; dsimp only; split <;> rfl
@[simp] theorem State.correctRegion_recov1 (r : Region) (s : State) : (s.correctRegion r).recov1 = s.recov1 :=
  by unfold State.correctRegion; dsimp only; split <;> rfl
@[simp] theorem State.correctRegion_recov2 (r : Region) (s : State) : (s.correctRegion r).recov2 = s.recov2 :=
  by unfold State.correctRegion; dsimp only; split <;> rfl
@[simp] theorem State.correctRegion_underrun (r : Region) (s : State) : (s.correctRegion r).underrun = s.underrun :=
  by unfold State.correctRegion; dsimp only; split <;> rfl
@[simp] theorem State.correctRegion_err (r : Region) (s : State) : (s.correctRegion r).err = s.err :=
  by unfold State.correctRegion; dsimp only; split <;> rfl
@[simp] theorem State.correctRegion_erridx (r : Region) (s : State) : (s.correctRegion r).erridx = s.erridx :=
  by unfold State.correctRegion; dsimp only; split <;> rfl
@[simp] theorem State.correctRegion_mmcnt (r : Region) (s : State) : (s.correctRegion r).mmcnt = s.mmcnt :=
  by unfold State.correctRegion; dsimp only; split <;> rfl
@[simp] theorem State.correctRegion_linkOpen (r : Region) (s : State) : (s.correctRegion r).linkOpen = s.linkOpen :=
  by unfold State.correctRegion; dsimp only; split <;> rfl
@[simp] theorem State.correctRegion_rxq (r : Region) (s : State) : (s.correctRegion r).rxq = s.rxq :=
  by unfold State.correctRegion; dsimp only; split <;> rfl
@[simp] theorem State.correctRegion_wire (r : Region) (s : State) : (s.correctRegion r).wire = s.wire :=
  by unfold State.correctRegion; dsimp only; split <;> rfl
@[simp] theorem State.correctRegion_log (r : Region) (s : State) : (s.correctRegion r).log = s.log :=
  by unfold State.correctRegion; dsimp only; split <;> rfl
@[simp] theorem State.correctRegion_lkres (r : Region) (s : State) : (s.correctRegion r).lkres = s.lkres :=
  by unfold State.correctRegion; dsimp only; split <;> rfl
@[simp] theorem State.correctRegion_hrd (r : Region) (s : State) : (s.correctRegion r).hrd = s.hrd :=
  by unfold State.correctRegion; dsimp only; split <;> rfl
@[simp] theorem State.correctRegion_inputs (r : Region) (s : State) : (s.correctRegion r).inputs = s.inputs :=
  by unfold State.correctRegion; dsimp only; split <;> rfl
@[simp] theorem State.correctRegion_dev (r : Region) (s : State) : (s.correctRegion r).dev = s.dev :=
  by unfold State.correctRegion; dsimp only; split <;> rfl
@[simp] theorem State.correctRegion_draws (r : Region) (s : State) : (s.correctRegion r).draws = s.draws :=
  by unfold State.correctRegion; dsimp only; split <;> rfl
@[simp] theorem State.correctRegion_epoch (r : Region) (s : State) : (s.correctRegion r).epoch = s.epoch :=
  by unfold State.correctRegion; dsimp only; split <;> rfl
@[simp] theorem State.correctRegion_cfg (r : Region) (s : State) : (s.correctRegion r).cfg = s.cfg :=
  by unfold State.correctRegion; dsimp only; split <;> rfl

/-! ### correctPass -/

@[simp] theorem State.correctPass_len (s : State) : (s.correctPass).len = s.len :=
  by simp [State.correctPass]
@[simp] theorem State.correctPass_txb (s : State) : (s.correctPass).txb = s.txb :=
  by simp [State.correctPass]
@[simp] theorem State.correctPass_echo (s : State) : (s.correctPass).echo = s.echo :=
  by simp [State.correctPass]
@[simp] theorem State.correctPass_rxcnt (s : State) : (s.correctPass).rxcnt = s.rxcnt :=
  by simp [State.correctPass]
@[simp] theorem State.correctPass_blk (s : State) : (s.correctPass).blk = s.blk :=
  by simp [State.correctPass]
@[simp] theorem State.correctPass_idx (s : State) : (s.correctPass).idx = s.idx :=
  by simp [State.correctPass]
@[simp] theorem State.correctPass_fsm (s : State) : (s.correctPass).fsm = s.fsm :=
  by simp [State.correctPass]
@[simp] theorem State.correctPass_dir (s : State) : (s.correctPass).dir = s.dir :=
  by simp [State.correctPass]
@[simp] theorem State.correctPass_seq (s : State) : (s.correctPass).seq = s.seq :=
  by simp [State.correctPass]
@[simp] theorem State.correctPass_vok (s : State) : (s.correctPass).vok = s.vok :=
  by simp [State.correctPass]
@[simp] theorem State.correctPass_recov1 (s : State) : (s.correctPass).recov1 = s.recov1 :=
  by simp [State.correctPass]
@[simp] theorem State.correctPass_recov2 (s : State) : (s.correctPass).recov2 = s.recov2 :=
  by simp [State.correctPass]
@[simp] theorem State.correctPass_underrun (s : State) : (s.correctPass).underrun = s.underrun :=
  by simp [State.correctPass]
@[simp] theorem State.correctPass_err (s : State) : (s.correctPass).err = s.err :=
  by simp [State.correctPass]
@[simp] theorem State.correctPass_erridx (s : State) : (s.correctPass).erridx = s.erridx :=
  by simp [State.correctPass]
@[simp] theorem State.correctPass_mmcnt (s : State) : (s.correctPass).mmcnt = s.mmcnt :=
  by simp [State.correctPass]
@[simp] theorem State.correctPass_linkOpen (s : State) : (s.correctPass).linkOpen = s.linkOpen :=
  by simp [State.correctPass]
@[simp] theorem State.correctPass_rxq (s : State) : (s.correctPass).rxq = s.rxq :=
  by simp [State.correctPass]
@[simp] theorem State.correctPass_wire (s : State) : (s.correctPass).wire = s.wire :=
  by simp [State.correctPass]
@[simp] theorem State.correctPass_log (s : State) : (s.correctPass).log = s.log :=
  by simp [State.correctPass]
@[simp] theorem State.correctPass_lkres (s : State) : (s.correctPass).lkres = s.lkres :=
  by simp [State.correctPass]
@[simp] theorem State.correctPass_hrd (s : State) : (s.correctPass).hrd = s.hrd :=
  by simp [State.correctPass]
@[simp] theorem State.correctPass_inputs (s : State) : (s.correctPass).inputs = s.inputs :=
  by simp [State.correctPass]
@[simp] theorem State.correctPass_dev (s : State) : (s.correctPass).dev = s.dev :=
  by simp [State.correctPass]
@[simp] theorem State.correctPass_draws (s : State) : (s.correctPass).draws = s.draws :=
  by simp [State.correctPass]
@[simp] theorem State.correctPass_epoch (s : State) : (s.correctPass).epoch = s.epoch :=
  by simp [State.correctPass]
@[simp] theorem State.correctPass_cfg (s : State) : (s.correctPass).cfg = s.cfg :=
  by simp [State.correctPass]

end Sys2Proof.Machine
end

