-- ==== Sys2Proof/Laws/Memory.lean ====
section
/-! SUPPORT. The laws of the image: read after write, the canonical form, and what the sums depend on. -/

namespace Sys2Proof.Machine

theorem Memory.lookup_write_same (m : Memory) (a : Nat) (b : Byte) :
    Memory.lookup (Memory.write m a b) a = some b := by
  induction m with
  | nil => simp [Memory.write, Memory.lookup]
  | cons c rest ih =>
    obtain ⟨k, v⟩ := c
    unfold Memory.write
    split_ifs with h1 h2
    · simp [Memory.lookup]
    · simp [Memory.lookup]
    · simpa [Memory.lookup, Ne.symm h2] using ih

theorem Memory.lookup_write_other (m : Memory) {a a' : Nat} (b : Byte) (h : a' ≠ a) :
    Memory.lookup (Memory.write m a b) a' = Memory.lookup m a' := by
  induction m with
  | nil => simp [Memory.write, Memory.lookup, Ne.symm h]
  | cons c rest ih =>
    obtain ⟨k, v⟩ := c
    unfold Memory.write
    split_ifs with h1 h2
    · simp [Memory.lookup, Ne.symm h]
    · subst h2; simp [Memory.lookup, Ne.symm h]
    · simp [Memory.lookup, ih]

/-- The canonical form as a proposition. -/
theorem Memory.wf_iff (m : Memory) :
    m.wf = true ↔ m.Pairwise (fun c d => c.1 < d.1) ∧ ∀ c ∈ m, c.1 < Config.imgLen := by
  simp [Memory.wf]

/-- The offsets that a write lists. -/
theorem Memory.mem_write {m : Memory} {a : Nat} {b : Byte} {c : Host.Cell}
    (h : c ∈ Memory.write m a b) : c = (a, b) ∨ c ∈ m := by
  induction m with
  | nil => simpa [Memory.write] using h
  | cons d rest ih =>
    obtain ⟨k, v⟩ := d
    unfold Memory.write at h
    split_ifs at h with h1 h2
    · simpa using h
    · rcases List.mem_cons.1 h with h | h
      · exact .inl h
      · exact .inr (List.mem_cons_of_mem _ h)
    · rcases List.mem_cons.1 h with h | h
      · exact .inr (by simp [h])
      · exact (ih h).imp id (List.mem_cons_of_mem _)

theorem Memory.write_rising {m : Memory} (a : Nat) (b : Byte)
    (h : m.Pairwise (fun c d => c.1 < d.1)) :
    (Memory.write m a b).Pairwise (fun c d => c.1 < d.1) := by
  induction m with
  | nil => simp [Memory.write]
  | cons c rest ih =>
    obtain ⟨k, v⟩ := c
    obtain ⟨hk, hr⟩ := List.pairwise_cons.1 h
    unfold Memory.write
    split_ifs with h1 h2
    · refine List.pairwise_cons.2 ⟨fun d hd => ?_, h⟩
      rcases List.mem_cons.1 hd with rfl | hd
      · exact h1
      · exact h1.trans (hk d hd)
    · subst h2
      exact List.pairwise_cons.2 ⟨hk, hr⟩
    · refine List.pairwise_cons.2 ⟨fun d hd => ?_, ih hr⟩
      rcases Memory.mem_write hd with rfl | hd
      · show k < a; omega
      · exact hk d hd

/-- A write inside the image keeps the canonical form. -/
theorem Memory.write_wf {m : Memory} {a : Nat} (b : Byte) (h : m.wf = true) (ha : a < Config.imgLen) :
    (Memory.write m a b).wf = true := by
  rw [Memory.wf_iff] at h ⊢
  refine ⟨Memory.write_rising a b h.1, fun c hc => ?_⟩
  rcases Memory.mem_write hc with rfl | hc
  · exact ha
  · exact h.2 c hc

/-- A run of ascending writes inside the image keeps the canonical form. -/
theorem Memory.writeBytes_wf {m : Memory} {a : Nat} {bs : List Byte} (h : m.wf = true)
    (ha : a + bs.length ≤ Config.imgLen) : (Memory.writeBytes m a bs).wf = true := by
  induction bs generalizing m a with
  | nil => exact h
  | cons b bs ih =>
    simp only [List.length_cons] at ha
    exact ih (Memory.write_wf b h (by omega)) (by omega)

/-- The memory of reset has the canonical form. -/
theorem Memory.reset_wf : Memory.wf State.reset.img = true := by decide

theorem State.imgByte_congr {s t : State} (hi : t.img = s.img) (he : t.epoch = s.epoch) :
    t.imgByte = s.imgByte := by
  funext a; simp [State.imgByte, hi, he]

theorem State.imgByte_setImg_same (s : State) (a : Nat) (v : Byte) :
    (s.setImg a v).imgByte a = v := by
  simp [State.imgByte, Memory.lookup_write_same]

theorem State.imgByte_setImg_other (s : State) {a a' : Nat} (v : Byte) (h : a' ≠ a) :
    (s.setImg a v).imgByte a' = s.imgByte a' := by
  simp [State.imgByte, Memory.lookup_write_other _ _ h]

/-- A sum depends only on the bytes it sums. -/
theorem State.sum8_congr {s t : State} {a b : Nat}
    (h : ∀ k, a ≤ k → k ≤ b → t.imgByte k = s.imgByte k) : t.sum8 a b = s.sum8 a b := by
  unfold State.sum8
  congr 1
  refine List.map_congr_left fun k hk => ?_
  rw [List.mem_range'_1] at hk
  exact h k hk.1 (by omega)

theorem State.computed_congr {s t : State} {r : Region}
    (h : ∀ k, rStart r ≤ k → k ≤ ckOff r - 1 → t.imgByte k = s.imgByte k) :
    t.computed r = s.computed r :=
  State.sum8_congr h

/-- VerifyPass is a function of IMG (41_checksum.md R103). -/
theorem State.verifyPass_congr {s t : State} (h : t.imgByte = s.imgByte) :
    t.verifyPass = s.verifyPass := by
  simp [State.verifyPass, State.regionMatches, State.computed, State.stored, State.sum8, h]

/-- What one region of CorrectPass does to the image (41_checksum.md R104). -/
theorem State.imgByte_correctRegion (s : State) (r : Region) (a : Nat) :
    (s.correctRegion r).imgByte a = if a = ckOff r then s.computed r else s.imgByte a := by
  unfold State.correctRegion
  dsimp only
  split_ifs with h1 h2 h2
  · subst h2; exact h1
  · rfl
  · subst h2; exact State.imgByte_setImg_same _ _ _
  · exact State.imgByte_setImg_other _ _ h2

/-- What one region of CorrectPass makes of IMG depends on IMG alone. -/
theorem State.correctRegion_img_congr {s t : State} (r : Region) (hi : t.img = s.img)
    (he : t.epoch = s.epoch) : (t.correctRegion r).img = (s.correctRegion r).img := by
  have hb : t.imgByte = s.imgByte := State.imgByte_congr hi he
  have hc : t.computed r = s.computed r := State.computed_congr fun k _ _ => by rw [hb]
  have hs : ∀ x, ({ t with acc := x } : State).stored r = ({ s with acc := x } : State).stored r := by
    intro x; show t.imgByte _ = s.imgByte _; rw [hb]
  unfold State.correctRegion
  dsimp only
  rw [hc, hs]
  generalize s.computed r = c
  split_ifs
  · exact hi
  · show Memory.write t.img _ _ = Memory.write s.img _ _; rw [hi]

/-- What CorrectPass makes of IMG depends on IMG alone. -/
theorem State.correctPass_img_congr {s t : State} (hi : t.img = s.img) (he : t.epoch = s.epoch) :
    t.correctPass.img = s.correctPass.img :=
  State.correctRegion_img_congr _ (State.correctRegion_img_congr _
    (State.correctRegion_img_congr _ hi he) (by simp [he])) (by simp [he])

/-- One region of CorrectPass keeps the canonical form. -/
theorem State.correctRegion_wf {s : State} (r : Region) (h : Memory.wf s.img = true) :
    Memory.wf (s.correctRegion r).img = true := by
  unfold State.correctRegion
  dsimp only
  split_ifs
  · exact h
  · exact Memory.write_wf _ h (by cases r <;> decide)

/-- CorrectPass keeps the canonical form. -/
theorem State.correctPass_wf {s : State} (h : Memory.wf s.img = true) :
    Memory.wf s.correctPass.img = true :=
  State.correctRegion_wf _ (State.correctRegion_wf _ (State.correctRegion_wf _ h))

end Sys2Proof.Machine
end

