-- ==== Sys2Proof/Laws/Ops.lean ====
section
/-! SUPPORT. One lemma for each shared operation, saying all that it can do. -/

namespace Sys2Proof.Machine

theorem busy_eq_false {s : State} : s.busy = false ↔ s.seq = .idle := by
  simp [State.busy]

theorem busy_eq_true {s : State} : s.busy = true ↔ s.seq ≠ .idle := by
  simp [State.busy]

/-- A command byte written while BUSY = 1 is dropped (10_state.md R18). -/
theorem dispatch_busy {body : State → State} {s : State} (h : s.busy = true) :
    dispatch body s = s := by simp [dispatch, h]

/-- A command byte taken by the decoder (30_encoding.md R77). -/
theorem dispatch_idle {body : State → State} {s : State} (h : s.busy = false) :
    dispatch body s = body s.acknowledge := by simp [dispatch, h]

/-- `raise` after a transfer has started is an abort (60_exceptions.md R181). -/
theorem State.raiseError_inTransfer {s : State} (e : ErrCode) (h : s.seq.inTransfer = true) :
    s.raiseError e = { s with err := e, fsm := .aborted, seq := .aborting } := by
  simp [State.raiseError, h]

/-- `raise` at any other time is a rejection (60_exceptions.md R182). -/
theorem State.raiseError_rejects {s : State} (e : ErrCode) (h : s.seq.inTransfer = false) :
    s.raiseError e = { s with err := e, seq := .idle } := by
  simp [State.raiseError, h]

theorem State.nextMove_queued {s : State} {m : DevMove} {rest : List DevMove}
    (h : s.dev = m :: rest) : s.nextMove = m := by simp [State.nextMove, h]

theorem State.dropMove_queued {s : State} {m : DevMove} {rest : List DevMove}
    (h : s.dev = m :: rest) : s.dropMove = { s with dev := rest } := by
  simp [State.dropMove, h]

@[simp] theorem enqueue_unbounded (q bs : List Byte) : enqueue none q bs = q ++ bs := rfl

/-- A link primitive that needs an open link: refused, or its action (10_state.md R27). -/
theorem whenOpen_next {act : State → State} {s t : State} (h : whenOpen act s = .next t) :
    s.linkOpen = true ∧ t = act s := by
  unfold whenOpen at h
  split at h
  · rename_i ho; exact ⟨ho, by simpa using h.symm⟩
  · cases h

theorem whenOpen_open {act : State → State} {s : State} (h : s.linkOpen = true) :
    whenOpen act s = .next (act s) := by simp [whenOpen, h]

theorem whenOpen_closed {act : State → State} {s : State} (h : s.linkOpen = false) :
    whenOpen act s = .refused .linkNotOpen := by simp [whenOpen, h]

/-- The device side's turn: its move is used up and its bytes, where they fit, are at the tail of RXQ
(40_link.md R90). -/
theorem State.deviceTurn_eq (s : State) :
    s.deviceTurn = { s.dropMove with rxq := enqueue s.cfg.wMax s.rxq s.nextMove.arrive } := by
  simp [State.deviceTurn, State.arrive]

/-- All that one link primitive can do (40_link.md R83 to R91, U6). -/
theorem State.linkStep_cases (mayStall : Bool) (effect : State → State) (s : State) :
    (s.moveAnswer mayStall = .ok ∧ s.linkStep mayStall effect = effect s.deviceTurn) ∨
    (s.moveAnswer mayStall = .fail ∧ s.linkStep mayStall effect = s.deviceTurn.answer .failed) ∨
    (s.moveAnswer mayStall = .stall ∧ s.linkStep mayStall effect = s.deviceTurn.answer .stalled) := by
  unfold State.linkStep
  cases h : s.moveAnswer mayStall <;> simp

/-- A primitive fails only when the device side makes it fail and LINKFAIL is true (40_link.md R91). -/
theorem State.moveAnswer_fail {mayStall : Bool} {s : State} :
    s.moveAnswer mayStall = .fail ↔ s.nextMove.answer = .fail ∧ s.cfg.linkFail = true := by
  unfold State.moveAnswer
  cases s.nextMove.answer <;> cases mayStall <;> cases s.cfg.linkFail <;> simp

/-- Only a write or a break can fail to return (93_implementation_defined.md U6). -/
theorem State.moveAnswer_stall {mayStall : Bool} {s : State} :
    s.moveAnswer mayStall = .stall ↔ s.nextMove.answer = .stall ∧ mayStall = true := by
  unfold State.moveAnswer
  cases s.nextMove.answer <;> cases mayStall <;> cases s.cfg.linkFail <;> simp

theorem andThen_eq_next {o : Out} {f : State → Out} {t : State} (h : andThen o f = .next t) :
    ∃ u, o = .next u ∧ f u = .next t := by
  cases o with
  | next u => exact ⟨u, rfl, h⟩
  | fault r => cases h
  | refused r => cases h

@[simp] theorem andThen_next (s : State) (f : State → Out) : andThen (.next s) f = f s := rfl

/-- Every unit the sequencer presents is an instruction (30_encoding.md R64: the engine never issues a
reserved code). -/
theorem decode_request {s : State} {u : CodeUnit} (h : s.request = some u) :
    ∃ i, decode u = .ok i ∧ i.port ≠ .cmd := by
  unfold State.request at h
  split at h <;> simp only [Option.some.injEq, reduceCtorEq] at h <;> subst h <;>
    exact ⟨_, rfl, by simp [Instr.port]⟩

theorem machineStep_engine {s : State} (h : s.inputs = []) : machineStep s = engineStep s := by
  simp [machineStep, h]

theorem machineStep_input {s : State} {i : Input} {rest : List Input} (h : s.inputs = i :: rest) :
    machineStep s = takeInput i { s with inputs := rest } := by
  simp [machineStep, h]

/-- With nothing queued from outside, a step is an engine step (00_scope.md R3). -/
theorem step_engine {s : State} (h : s.inputs = []) : step s = engineStep s :=
  machineStep_engine h

/-- An engine step at a place that presents the instruction `i` (10_state.md R14). -/
theorem engineStep_runs {s : State} {u : CodeUnit} {i : Instr} (ho : s.offsetsInside = true)
    (hr : s.enter.request = some u) (hd : decode u = .ok i) :
    engineStep s = andThen (exec i s.enter) (fun t => .next t.resume) := by
  simp [engineStep, ho, hr, runUnit, hd]

/-- An engine step at a checksum pass or a Delay (10_state.md R14). -/
theorem engineStep_local {s : State} (ho : s.offsetsInside = true) (hr : s.enter.request = none) :
    engineStep s = .next (localStep s) := by
  simp [engineStep, ho, hr]

/-- All that an engine step can do. -/
theorem engineStep_cases (s : State) :
    (s.offsetsInside = false ∧ engineStep s = .fault .imgOffset) ∨
    (s.offsetsInside = true ∧ s.enter.request = none ∧ engineStep s = .next (localStep s)) ∨
    (s.offsetsInside = true ∧ ∃ u i, s.enter.request = some u ∧ decode u = .ok i ∧
      engineStep s = andThen (exec i s.enter) (fun t => .next t.resume)) := by
  cases ho : s.offsetsInside with
  | false => exact .inl ⟨rfl, by simp [engineStep, ho]⟩
  | true =>
    cases hr : s.enter.request with
    | none => exact .inr (.inl ⟨rfl, rfl, engineStep_local ho hr⟩)
    | some u =>
      obtain ⟨i, hd, -⟩ := decode_request hr
      exact .inr (.inr ⟨rfl, u, i, rfl, hd, engineStep_runs ho hr hd⟩)

/-- After a link failure the running command raises LinkUnavailable (40_link.md R91). -/
theorem State.resume_failed {s : State} (h : s.lkres = .failed) :
    s.resume = s.raiseError .linkUnavailable := by simp [State.resume, h]

/-- A primitive that has not returned leaves the engine where it is (U6). -/
theorem State.resume_stalled {s : State} (h : s.lkres = .stalled) : s.resume = s := by
  simp [State.resume, h]

theorem State.resume_returned {s : State} (hf : s.lkres ≠ .failed) (hs : s.lkres ≠ .stalled) :
    s.resume = s.proceed := by
  unfold State.resume
  cases h : s.lkres <;> simp_all

/-! ### Runs of several steps -/

@[simp] theorem core_step : Sys2Proof.core.step = step := rfl

/-- A run of no steps. -/
theorem core_run_zero (s : State) : Sys2Proof.core.run 0 s = Host.Outcome.next s := rfl

/-- A run is its first step and the rest. -/
theorem core_run_succ (k : Nat) (s : State) :
    Sys2Proof.core.run (k + 1) s = andThen (step s) (fun t => Sys2Proof.core.run k t) := by
  cases h : step s <;> simp only [Host.Core.run, core_step, h, andThen] <;> rfl

end Sys2Proof.Machine
end

