-- ==== Sys2Proof/Laws/Link.lean ====
section
/-! SUPPORT. What a link primitive can touch, once for all of them, and what an engine step is made of. -/

namespace Sys2Proof.Machine

/-- Two states that differ at most in the link (LINKOPEN, RXQ, WIRE, its answer) and in the device side's queue
and draws: IMG, the registers, SEQ, LOG and the rest are the same. -/
structure SameRegisters (s t : State) : Prop where
  img : t.img = s.img
  len : t.len = s.len
  acc : t.acc = s.acc
  txb : t.txb = s.txb
  echo : t.echo = s.echo
  rxcnt : t.rxcnt = s.rxcnt
  blk : t.blk = s.blk
  idx : t.idx = s.idx
  fsm : t.fsm = s.fsm
  dir : t.dir = s.dir
  seq : t.seq = s.seq
  vok : t.vok = s.vok
  recov1 : t.recov1 = s.recov1
  recov2 : t.recov2 = s.recov2
  underrun : t.underrun = s.underrun
  err : t.err = s.err
  erridx : t.erridx = s.erridx
  mmcnt : t.mmcnt = s.mmcnt
  log : t.log = s.log
  hrd : t.hrd = s.hrd
  inputs : t.inputs = s.inputs
  epoch : t.epoch = s.epoch
  cfg : t.cfg = s.cfg

theorem SameRegisters.refl (s : State) : SameRegisters s s := by
  constructor <;> rfl

theorem SameRegisters.trans {s t u : State} (h : SameRegisters s t) (g : SameRegisters t u) :
    SameRegisters s u := by
  constructor
  all_goals first
    | exact g.img.trans h.img | exact g.len.trans h.len | exact g.acc.trans h.acc
    | exact g.txb.trans h.txb | exact g.echo.trans h.echo | exact g.rxcnt.trans h.rxcnt
    | exact g.blk.trans h.blk | exact g.idx.trans h.idx | exact g.fsm.trans h.fsm
    | exact g.dir.trans h.dir | exact g.seq.trans h.seq | exact g.vok.trans h.vok
    | exact g.recov1.trans h.recov1 | exact g.recov2.trans h.recov2
    | exact g.underrun.trans h.underrun | exact g.err.trans h.err
    | exact g.erridx.trans h.erridx | exact g.mmcnt.trans h.mmcnt | exact g.log.trans h.log
    | exact g.hrd.trans h.hrd | exact g.inputs.trans h.inputs | exact g.epoch.trans h.epoch
    | exact g.cfg.trans h.cfg

theorem State.deviceTurn_same (s : State) : SameRegisters s s.deviceTurn := by
  constructor <;> simp

theorem State.answer_same (r : LinkResult) (s : State) : SameRegisters s (s.answer r) := by
  constructor <;> rfl

/-- A link step touches only the link, if its effect does. -/
theorem State.linkStep_same {mayStall : Bool} {effect : State → State} (s : State)
    (h : ∀ u, SameRegisters u (effect u)) : SameRegisters s (s.linkStep mayStall effect) := by
  rcases s.linkStep_cases mayStall effect with ⟨-, e⟩ | ⟨-, e⟩ | ⟨-, e⟩ <;> rw [e]
  · exact s.deviceTurn_same.trans (h _)
  · exact s.deviceTurn_same.trans (State.answer_same _ _)
  · exact s.deviceTurn_same.trans (State.answer_same _ _)

theorem State.linkStep_linkOpen {mayStall : Bool} {effect : State → State} (s : State)
    (h : ∀ u, (effect u).linkOpen = u.linkOpen) :
    (s.linkStep mayStall effect).linkOpen = s.linkOpen := by
  rcases s.linkStep_cases mayStall effect with ⟨-, e⟩ | ⟨-, e⟩ | ⟨-, e⟩ <;> rw [e] <;> simp [h]

/-- An instruction of the link or the wire other than the quirk pattern touches only the link. -/
theorem exec_link_same {i : Instr} {s t : State} (hp : i.port ≠ .cmd) (hq : i ≠ .quirk)
    (h : exec i s = .next t) : SameRegisters s t := by
  cases i with
  | cmdOpen | cmdClose | cmdVerify | cmdCorrect | cmdRecv | cmdSend => exact absurd rfl hp
  | quirk => exact absurd rfl hq
  | lkOpen =>
    simp only [exec, execLkOpen, Host.Outcome.next.injEq] at h
    subst h; constructor <;> simp
  | lkClose =>
    simp only [exec, execLkClose, Host.Outcome.next.injEq] at h
    subst h; constructor <;> simp
  | lkRead n => rw [(whenOpen_next h).2]; exact s.linkStep_same fun u => by constructor <;> rfl
  | lkWrite bs => rw [(whenOpen_next h).2]; exact s.linkStep_same fun u => by constructor <;> rfl
  | lkBreak d => rw [(whenOpen_next h).2]; exact s.linkStep_same fun u => by constructor <;> rfl
  | lkWaiting => rw [(whenOpen_next h).2]; exact s.linkStep_same fun u => by constructor <;> rfl
  | lkFlushin => rw [(whenOpen_next h).2]; exact s.linkStep_same fun u => by constructor <;> rfl
  | lkFlushout => rw [(whenOpen_next h).2]; exact s.linkStep_same fun u => by constructor <;> rfl
  | ack => rw [(whenOpen_next h).2]; exact s.linkStep_same fun u => by constructor <;> rfl

/-- Only LK.OPEN and LK.CLOSE change LINKOPEN, and the others are issued with the link open. -/
theorem exec_link_linkOpen {i : Instr} {s t : State} (hp : i.port ≠ .cmd) (hq : i ≠ .quirk)
    (ho : i ≠ .lkOpen) (hc : i ≠ .lkClose) (h : exec i s = .next t) :
    s.linkOpen = true ∧ t.linkOpen = true := by
  cases i with
  | cmdOpen | cmdClose | cmdVerify | cmdCorrect | cmdRecv | cmdSend => exact absurd rfl hp
  | quirk => exact absurd rfl hq
  | lkOpen => exact absurd rfl ho
  | lkClose => exact absurd rfl hc
  | lkRead n | lkWrite bs | lkBreak d | lkWaiting | lkFlushin | lkFlushout | ack =>
    obtain ⟨hl, rfl⟩ := whenOpen_next h
    exact ⟨hl, (State.linkStep_linkOpen s fun u => by rfl).trans hl⟩

/-- Those primitives never fault and are refused only on a closed link. -/
theorem exec_link_open {i : Instr} {s : State} (hp : i.port ≠ .cmd) (hl : s.linkOpen = true) :
    ∃ t, exec i s = .next t := by
  cases i with
  | cmdOpen | cmdClose | cmdVerify | cmdCorrect | cmdRecv | cmdSend => exact absurd rfl hp
  | lkOpen | lkClose => exact ⟨_, rfl⟩
  | quirk => simp only [exec, execQuirk]; split <;> exact ⟨_, rfl⟩
  | lkRead n | lkWrite bs | lkBreak d | lkWaiting | lkFlushin | lkFlushout | ack =>
    exact ⟨_, whenOpen_open hl⟩

/-- LK.READ(n) answers at most n bytes, or fails (40_link.md R83, R91). -/
theorem exec_lkRead_answer {n : Nat} {s t : State} (h : exec (.lkRead n) s = .next t) :
    t.lkres = .failed ∨ ∃ r, t.lkres = .bytes r ∧ r.length ≤ n := by
  rw [(whenOpen_next h).2]
  rcases s.linkStep_cases false (State.takeBytes n) with ⟨-, e⟩ | ⟨-, e⟩ | ⟨hs, -⟩
  · rw [e]; exact .inr ⟨_, rfl, by simp⟩
  · rw [e]; exact .inl rfl
  · exact absurd (State.moveAnswer_stall.1 hs).2 (by simp)

/-- The sequencer never presents QUIRK. -/
theorem request_not_quirk {s : State} {u : CodeUnit} {i : Instr} (h : s.request = some u)
    (hd : decode u = .ok i) : i ≠ .quirk := by
  unfold State.request at h
  split at h <;> simp only [Option.some.injEq, reduceCtorEq] at h <;> subst h <;>
    · rintro rfl
      simp [decode, decodeLkReq, decodeSymbol, bareRequest, Config.ackByte] at hd

/-- If an engine step answers a next state, it is a local step, or the lines after a primitive that touched
nothing but the link. -/
theorem engineStep_next {s t : State} (h : engineStep s = .next t) :
    (s.offsetsInside = true ∧ s.enter.request = none ∧ t = localStep s) ∨
    (s.offsetsInside = true ∧ ∃ u i v, s.enter.request = some u ∧ decode u = .ok i ∧
      i.port ≠ .cmd ∧ i ≠ .quirk ∧ exec i s.enter = .next v ∧ SameRegisters s.enter v ∧
      t = v.resume) := by
  rcases engineStep_cases s with ⟨-, e⟩ | ⟨ho, hr, e⟩ | ⟨ho, u, i, hr, hd, e⟩
  · rw [e] at h; cases h
  · rw [e] at h; cases h; exact .inl ⟨ho, hr, rfl⟩
  · rw [e] at h
    obtain ⟨v, hv, ht⟩ := andThen_eq_next h
    obtain ⟨j, hj, hp⟩ := decode_request hr
    have hij : j = i := by rw [hd] at hj; cases hj; rfl
    subst hij
    have hq := request_not_quirk hr hd
    cases ht
    exact .inr ⟨ho, u, j, v, hr, hd, hp, hq, hv, exec_link_same hp hq hv, rfl⟩

end Sys2Proof.Machine
end

