-- ==== Sys2Proof/Laws/Observe.lean ====
section
/-! SUPPORT. What the final observation and the results of a SEND can be. -/

namespace Sys2Proof.Safety

open Sys2Proof.Machine

/-- A state with BUSY = 1 is never final (70_reset_and_hazards.md R218). -/
@[simp] theorem observe_busy {c : Byte} {s : State} (h : s.busy = true) : observe c s = none := by
  simp [observe, h]

/-- What is observed of IMG at the end of a command (R218). -/
theorem observe_img {c : Byte} {s : State} (h : s.busy = false) :
    (observe c s).map (·.img) = some (if imgObservable c s then some (imageBytes s) else none) := by
  simp [observe, h]

/-- IMG is observable exactly when ERR = 0 or the command was a checksum command (R218). -/
theorem imgObservable_iff {c : Byte} {s : State} :
    imgObservable c s = true ↔ s.err = .none ∨ isChecksumCommand c = true := by
  simp [imgObservable]

theorem wentOn_iff {b : Block} {s : State} :
    wentOn b s = true ↔ s.fsm = .complete ∨ (blockCode b).toNat < s.blk.toNat := by
  simp [wentOn]

/-- Ok (43_send.md R159): a SEND, RECOV[b] = 0, the transfer went on, and block b did not fail. -/
theorem blockResult_ok_iff {b : Block} {s : State} :
    blockResult b s = some .ok ↔
      s.dir = .tx ∧ s.recov b = false ∧ wentOn b s = true ∧
        ¬(b = .three ∧ s.err = .echoMismatchFatal ∧ s.fsm = .aborted) := by
  unfold blockResult
  split_ifs <;> simp_all

/-- RecoverableError (R159): a SEND with RECOV[b] = 1. -/
theorem blockResult_recoverable_iff {b : Block} {s : State} :
    blockResult b s = some .recoverable ↔ s.dir = .tx ∧ s.recov b = true := by
  unfold blockResult
  split_ifs with h₁ h₂ <;> simp_all [State.recov]

/-- FatalError(offset) (R159): block 3 of an aborted SEND with ERR = 3, the offset in ERRIDX. -/
theorem blockResult_fatal_iff {b : Block} {s : State} {k : BitVec 16} :
    blockResult b s = some (.fatal k) ↔
      s.dir = .tx ∧ b = .three ∧ s.err = .echoMismatchFatal ∧ s.fsm = .aborted ∧ s.erridx = k := by
  unfold blockResult
  split_ifs <;> simp_all

end Sys2Proof.Safety
end

