-- ==== Sys2Proof/Laws/PerInstr.lean ====
section
/-! SUPPORT. The family of LAWS.json, one lemma for each constructor of Instr. -/

namespace Sys2Proof.Laws

/-- The encoder presents an instruction at the port that its row of spec/opcode_table.json names (30_encoding.md
R60). -/
def EncodePort.Statement (i : Instr) : Prop := (encode i).port = i.port

theorem EncodePort.cmdOpen : EncodePort.Statement .cmdOpen := rfl

theorem EncodePort.cmdClose : EncodePort.Statement .cmdClose := rfl

theorem EncodePort.cmdVerify : EncodePort.Statement .cmdVerify := rfl

theorem EncodePort.cmdCorrect : EncodePort.Statement .cmdCorrect := rfl

theorem EncodePort.cmdRecv : EncodePort.Statement .cmdRecv := rfl

theorem EncodePort.cmdSend : EncodePort.Statement .cmdSend := rfl

theorem EncodePort.lkOpen : EncodePort.Statement .lkOpen := rfl

theorem EncodePort.lkClose : EncodePort.Statement .lkClose := rfl

theorem EncodePort.lkRead (n : Nat) : EncodePort.Statement (.lkRead n) := rfl

theorem EncodePort.lkWrite (bs : List Byte) : EncodePort.Statement (.lkWrite bs) := rfl

theorem EncodePort.lkBreak (d : Duration) : EncodePort.Statement (.lkBreak d) := rfl

theorem EncodePort.lkWaiting : EncodePort.Statement .lkWaiting := rfl

theorem EncodePort.lkFlushin : EncodePort.Statement .lkFlushin := rfl

theorem EncodePort.lkFlushout : EncodePort.Statement .lkFlushout := rfl

theorem EncodePort.ack : EncodePort.Statement .ack := rfl

theorem EncodePort.quirk : EncodePort.Statement .quirk := rfl

end Sys2Proof.Laws
end

