-- ==== Sys2Proof/Laws/Run.lean ====
section
/-! SUPPORT. Runs of several steps. -/

namespace Sys2Proof.Safety

open Sys2Proof.Machine

@[simp] theorem runFor_zero (s : State) : runFor 0 s = .next s := rfl

theorem runFor_succ (k : Nat) (s : State) : runFor (k + 1) s = andThen (step s) (runFor k) := rfl

/-- The first step of a run, when it answers a next state. -/
theorem runFor_step {k : Nat} {s t : State} (h : step s = .next t) :
    runFor (k + 1) s = runFor k t := by
  simp [runFor_succ, h]

/-- Runs compose. -/
theorem runFor_add {j k : Nat} {s t : State} (h : runFor j s = .next t) :
    runFor (j + k) s = runFor k t := by
  induction j generalizing s with
  | zero => cases h; simp
  | succ j ih =>
    rw [Nat.succ_add, runFor_succ]
    rw [runFor_succ] at h
    obtain ⟨u, hu, hr⟩ := andThen_eq_next h
    rw [hu]
    exact ih hr

/-- The run of the claims is the host's. -/
theorem runFor_eq_core_run (k : Nat) (s : State) : runFor k s = Sys2Proof.core.run k s := by
  induction k generalizing s with
  | zero => rfl
  | succ k ih =>
    rw [core_run_succ, runFor_succ]
    cases step s with
    | next t => exact ih t
    | fault r => rfl
    | refused r => rfl

end Sys2Proof.Safety
end

