-- ==== Sys2Proof/Laws/Places.lean ====
section
/-! SUPPORT. One lemma for each place of the pseudocode that presents a primitive: the engine step there when the
device side lets the primitive return, and the Delay. -/

namespace Sys2Proof.Safety

open Sys2Proof.Machine

/-- The engine may step alone and the device side's next move lets a primitive return with the bytes `a`: nothing
is queued from outside, the link is open, RXQ is unbounded. -/
structure Served (s : State) (a : List Byte) (rest : List DevMove) : Prop where
  inputs : s.inputs = []
  linkOpen : s.linkOpen = true
  unbounded : s.cfg.wMax = none
  dev : s.dev = supplies a :: rest

/-- A link step that returns, at a place that presents `i`, whose effect leaves an answer that is neither failed
nor stalled: the device side's move, the effect, the lines after it. -/
theorem Returns.step {s : State} (h : Returns s)
    {u : CodeUnit} {i : Instr} {m : Bool} {effect : State → State}
    (hr : s.enter.request = some u) (hd : decode u = .ok i) (ho : s.offsetsInside = true)
    (hx : exec i s.enter = whenOpen (State.linkStep m effect) s.enter)
    (hf : ∀ w, (effect w).lkres ≠ .failed) (hs : ∀ w, (effect w).lkres ≠ .stalled) :
    Machine.step s = .next (effect s.enter.deviceTurn).proceed := by
  have hn : s.enter.nextMove = s.nextMove := by simp [State.nextMove]
  have hm : s.enter.moveAnswer m = .ok := by
    cases ha : s.enter.moveAnswer m with
    | ok => rfl
    | fail =>
      have := State.moveAnswer_fail.1 ha
      rw [hn, State.enter_cfg, h.notFailing (hn ▸ this.1)] at this
      cases this.2
    | stall => exact absurd (hn ▸ (State.moveAnswer_stall.1 ha).1) h.notHeld
  rw [step_engine h.inputs, engineStep_runs ho hr hd, hx, whenOpen_open (by simpa using h.linkOpen),
    andThen_next]
  simp only [State.linkStep, hm]
  rw [State.resume_returned (hf _) (hs _)]

/-- A served step returns. -/
theorem Served.returns {s : State} {a : List Byte} {rest : List DevMove} (h : Served s a rest) :
    Returns s := by
  have hn : s.nextMove = supplies a := State.nextMove_queued h.dev
  exact ⟨h.inputs, h.linkOpen, by simp [hn, supplies], by simp [hn, supplies]⟩

/-- The device side's turn at a served link step. -/
theorem Served.deviceTurn {s : State} {a : List Byte} {rest : List DevMove} (h : Served s a rest) :
    s.enter.deviceTurn = { s.enter with dev := rest, rxq := s.rxq ++ a } := by
  have hn : s.enter.nextMove = supplies a := State.nextMove_queued (by simpa using h.dev)
  have hd : s.enter.dropMove = { s.enter with dev := rest } :=
    State.dropMove_queued (by simpa using h.dev)
  simp [State.deviceTurn, State.arrive, hn, hd, supplies, h.unbounded]

/-- A served link step at a place that presents `i`. -/
theorem Served.step {s : State} {a : List Byte} {rest : List DevMove} (h : Served s a rest)
    {u : CodeUnit} {i : Instr} {m : Bool} {effect : State → State}
    (hr : s.enter.request = some u) (hd : decode u = .ok i) (ho : s.offsetsInside = true)
    (hx : exec i s.enter = whenOpen (State.linkStep m effect) s.enter)
    (hf : ∀ w, (effect w).lkres ≠ .failed) (hs : ∀ w, (effect w).lkres ≠ .stalled) :
    Machine.step s = .next (effect { s.enter with dev := rest, rxq := s.rxq ++ a }).proceed := by
  rw [h.returns.step hr hd ho hx hf hs, h.deviceTurn]

theorem Served.rxFlushIn {s : State} {a : List Byte} {rest : List DevMove} (h : Served s a rest)
    (hs : s.seq = .rxFlushIn) :
    Machine.step s = .next { s with dev := rest, rxq := [], lkres := .done, seq := .rxFlushOut } := by
  have he : s.enter = s := by simp [State.enter, hs]
  rw [h.step (i := .lkFlushin) (by simp [he, State.request, hs]; rfl) rfl
    (by simp [State.offsetsInside, hs]) rfl (fun w => by simp) (fun w => by simp)]
  simp [he, State.proceed, hs, State.dropInput, State.goTo]

theorem Served.rxFlushOut {s : State} {a : List Byte} {rest : List DevMove} (h : Served s a rest)
    (hs : s.seq = .rxFlushOut) :
    Machine.step s = .next
      { s with
        dev := rest, rxq := s.rxq ++ a, lkres := .done, fsm := .flushed, rxcnt := 0
        seq := .rxRead .one } := by
  have he : s.enter = s := by simp [State.enter, hs]
  rw [h.step (i := .lkFlushout) (by simp [he, State.request, hs]; rfl) rfl
    (by simp [State.offsetsInside, hs]) rfl (fun w => by simp) (fun w => by simp)]
  simp [he, State.proceed, hs, State.answer, State.goTo]

theorem Served.rxRead {s : State} {a : List Byte} {rest : List DevMove} (h : Served s a rest) {b : Block}
    (hs : s.seq = .rxRead b) (ho : s.rxcnt.toNat + segLen b ≤ Config.imgLen) :
    Machine.step s = .next (afterSegment b (storeSegment b ((s.rxq ++ a).take (segLen b))
      { s with
        dev := rest, rxq := (s.rxq ++ a).drop (segLen b), fsm := segState b, blk := blockCode b
        lkres := .bytes ((s.rxq ++ a).take (segLen b)) })) := by
  have he : s.enter = { s with fsm := segState b, blk := blockCode b } := by simp [State.enter, hs]
  rw [h.step (i := .lkRead (segLen b)) (by simp [State.request, hs]; rfl) rfl
    (by simpa [State.offsetsInside, hs] using ho) rfl (fun w => by simp) (fun w => by simp)]
  simp [he, State.proceed, hs, State.takeBytes, LinkResult.bytesOf]

theorem Served.rxSettle {s : State} {a : List Byte} {rest : List DevMove} (h : Served s a rest)
    {b : Block} (hs : s.seq = .rxSettle b) :
    Machine.step s = .next { s with dev := rest, rxq := s.rxq ++ a, seq := .rxAck b } := by
  have he : s.enter = s := by simp [State.enter, hs]
  rw [step_engine h.inputs, engineStep_local (by simp [State.offsetsInside, hs])
    (by simp [he, State.request, hs])]
  have hd := h.deviceTurn
  rw [he] at hd
  simp [localStep, hs, State.delay, hd, State.goTo]

theorem Served.rxAck {s : State} {a : List Byte} {rest : List DevMove} (h : Served s a rest)
    {b : Block} (hs : s.seq = .rxAck b) :
    Machine.step s = .next
      { s with
        dev := rest, rxq := s.rxq ++ a, wire := s.wire ++ [.byte 0x06#8], lkres := .done
        seq := .rxEcho b } := by
  have he : s.enter = s := by simp [State.enter, hs]
  rw [h.step (i := .ack) (by simp [he, State.request, hs]; rfl) rfl
    (by simp [State.offsetsInside, hs]) rfl (fun w => by simp) (fun w => by simp)]
  simp [he, State.proceed, hs, State.putBytes, State.goTo, Config.ackByte]

theorem Served.rxEcho {s : State} {a : List Byte} {rest : List DevMove} (h : Served s a rest)
    {b : Block} (hs : s.seq = .rxEcho b) :
    Machine.step s = .next
      { s with
        dev := rest, rxq := (s.rxq ++ a).drop 1, lkres := .bytes ((s.rxq ++ a).take 1)
        log := s.log ++ [.ackEcho .rx b ((s.rxq ++ a).take 1)], seq := .rxRead (nextBlock b) } := by
  have he : s.enter = s := by simp [State.enter, hs]
  rw [h.step (i := .lkRead 1) (by simp [he, State.request, hs]; rfl) rfl
    (by simp [State.offsetsInside, hs]) rfl (fun w => by simp) (fun w => by simp)]
  simp [he, State.proceed, hs, State.takeBytes, State.goTo, State.addLog, LinkResult.bytesOf]

theorem Served.txFlushIn {s : State} {a : List Byte} {rest : List DevMove} (h : Served s a rest)
    (hs : s.seq = .txFlushIn) :
    Machine.step s = .next { s with dev := rest, rxq := [], lkres := .done, seq := .txFlushOut } := by
  have he : s.enter = s := by simp [State.enter, hs]
  rw [h.step (i := .lkFlushin) (by simp [he, State.request, hs]; rfl) rfl
    (by simp [State.offsetsInside, hs]) rfl (fun w => by simp) (fun w => by simp)]
  simp [he, State.proceed, hs, State.dropInput, State.goTo]

theorem Served.txFlushOut {s : State} {a : List Byte} {rest : List DevMove} (h : Served s a rest)
    (hs : s.seq = .txFlushOut) :
    Machine.step s = .next
      { s with
        dev := rest, rxq := s.rxq ++ a, lkres := .done, fsm := .flushed, seq := .txWrite .one 0 } := by
  have he : s.enter = s := by simp [State.enter, hs]
  rw [h.step (i := .lkFlushout) (by simp [he, State.request, hs]; rfl) rfl
    (by simp [State.offsetsInside, hs]) rfl (fun w => by simp) (fun w => by simp)]
  simp [he, State.proceed, hs, State.answer, State.goTo]

theorem Served.txWrite {s : State} {a : List Byte} {rest : List DevMove} (h : Served s a rest)
    {b : Block} {i : Nat} (hs : s.seq = .txWrite b i) (ho : segBase b + i < Config.imgLen) :
    Machine.step s = .next
      { s.enter with
        dev := rest, rxq := s.rxq ++ a, wire := s.wire ++ [.byte s.enter.txb], lkres := .done
        seq := if isFinal b then echoPlace b s.enter else .txBreak b } := by
  rw [h.step (i := .lkWrite [s.enter.txb]) (by simp [State.request, hs]; rfl) rfl
    (by simpa [State.offsetsInside, hs] using ho) rfl (fun w => by simp) (fun w => by simp)]
  have hq : s.enter.seq = .txWrite b i := by simpa using hs
  simp only [State.putBytes, State.proceed, hq]
  split_ifs <;> simp [State.goTo, echoPlace]

theorem Served.txBreak {s : State} {a : List Byte} {rest : List DevMove} (h : Served s a rest)
    {b : Block} (hs : s.seq = .txBreak b) :
    Machine.step s = .next
      { s with
        dev := rest, rxq := s.rxq ++ a, wire := s.wire ++ [.brk .tBreak], lkres := .done
        seq := echoPlace b s } := by
  have he : s.enter = s := by simp [State.enter, hs]
  rw [h.step (i := .lkBreak .tBreak) (by simp [he, State.request, hs]; rfl) rfl
    (by simp [State.offsetsInside, hs]) rfl (fun w => by simp) (fun w => by simp)]
  simp [he, State.proceed, hs, State.putBreak, State.goTo, echoPlace]

theorem Served.txWaiting {s : State} {a : List Byte} {rest : List DevMove} (h : Served s a rest)
    {b : Block} (hs : s.seq = .txWaiting b) :
    Machine.step s = .next
      { s with
        dev := rest, rxq := s.rxq ++ a, lkres := .count (s.rxq ++ a).length
        seq := .txEcho b (max (s.rxq ++ a).length 1) } := by
  have he : s.enter = s := by simp [State.enter, hs]
  rw [h.step (i := .lkWaiting) (by simp [he, State.request, hs]; rfl) rfl
    (by simp [State.offsetsInside, hs]) rfl (fun w => by simp) (fun w => by simp)]
  simp [he, State.proceed, hs, State.countWaiting, State.goTo, LinkResult.countOf, oppReadSize]

theorem Served.txEcho {s : State} {a : List Byte} {rest : List DevMove} (h : Served s a rest)
    {b : Block} {n : Nat} (hs : s.seq = .txEcho b n) :
    Machine.step s = .next (echoTaken b ((s.rxq ++ a).take n)
      { s with
        dev := rest, rxq := (s.rxq ++ a).drop n, lkres := .bytes ((s.rxq ++ a).take n) }) := by
  have he : s.enter = s := by simp [State.enter, hs]
  rw [h.step (i := .lkRead n) (by simp [he, State.request, hs]; rfl) rfl
    (by simp [State.offsetsInside, hs]) rfl (fun w => by simp) (fun w => by simp)]
  simp [he, State.proceed, hs, State.takeBytes, LinkResult.bytesOf]

theorem Served.txSettle {s : State} {a : List Byte} {rest : List DevMove} (h : Served s a rest)
    {b : Block} (hs : s.seq = .txSettle b) :
    Machine.step s = .next { s with dev := rest, rxq := s.rxq ++ a, seq := .txAckWaiting b } := by
  have he : s.enter = s := by simp [State.enter, hs]
  rw [step_engine h.inputs, engineStep_local (by simp [State.offsetsInside, hs])
    (by simp [he, State.request, hs])]
  have hd := h.deviceTurn
  rw [he] at hd
  simp [localStep, hs, State.delay, hd, State.goTo]

theorem Served.txAckWaiting {s : State} {a : List Byte} {rest : List DevMove} (h : Served s a rest)
    {b : Block} (hs : s.seq = .txAckWaiting b) :
    Machine.step s = .next
      { s with
        dev := rest, rxq := s.rxq ++ a, lkres := .count (s.rxq ++ a).length
        seq := .txAckRead b (max (s.rxq ++ a).length s.cfg.ackReadMin.val) } := by
  have he : s.enter = s := by simp [State.enter, hs]
  rw [h.step (i := .lkWaiting) (by simp [he, State.request, hs]; rfl) rfl
    (by simp [State.offsetsInside, hs]) rfl (fun w => by simp) (fun w => by simp)]
  simp [he, State.proceed, hs, State.countWaiting, State.goTo, LinkResult.countOf, oppReadSize, ackReadMin]

theorem Served.txAckRead {s : State} {a : List Byte} {rest : List DevMove} (h : Served s a rest)
    {b : Block} {n : Nat} (hs : s.seq = .txAckRead b n) :
    Machine.step s = .next
      { s with
        dev := rest, rxq := (s.rxq ++ a).drop n, lkres := .bytes ((s.rxq ++ a).take n)
        log := s.log ++ [.devAck b ((s.rxq ++ a).take n)], seq := .txAck b } := by
  have he : s.enter = s := by simp [State.enter, hs]
  rw [h.step (i := .lkRead n) (by simp [he, State.request, hs]; rfl) rfl
    (by simp [State.offsetsInside, hs]) rfl (fun w => by simp) (fun w => by simp)]
  simp [he, State.proceed, hs, State.takeBytes, State.goTo, State.addLog, LinkResult.bytesOf]

theorem Served.txAck {s : State} {a : List Byte} {rest : List DevMove} (h : Served s a rest)
    {b : Block} (hs : s.seq = .txAck b) :
    Machine.step s = .next
      { s with
        dev := rest, rxq := s.rxq ++ a, wire := s.wire ++ [.byte 0x06#8], lkres := .done
        seq := .txAckEchoWaiting b } := by
  have he : s.enter = s := by simp [State.enter, hs]
  rw [h.step (i := .ack) (by simp [he, State.request, hs]; rfl) rfl
    (by simp [State.offsetsInside, hs]) rfl (fun w => by simp) (fun w => by simp)]
  simp [he, State.proceed, hs, State.putBytes, State.goTo, Config.ackByte]

theorem Served.txAckEchoWaiting {s : State} {a : List Byte} {rest : List DevMove} (h : Served s a rest)
    {b : Block} (hs : s.seq = .txAckEchoWaiting b) :
    Machine.step s = .next
      { s with
        dev := rest, rxq := s.rxq ++ a, lkres := .count (s.rxq ++ a).length
        seq := .txAckEchoRead b (max (s.rxq ++ a).length s.cfg.ackReadMin.val) } := by
  have he : s.enter = s := by simp [State.enter, hs]
  rw [h.step (i := .lkWaiting) (by simp [he, State.request, hs]; rfl) rfl
    (by simp [State.offsetsInside, hs]) rfl (fun w => by simp) (fun w => by simp)]
  simp [he, State.proceed, hs, State.countWaiting, State.goTo, LinkResult.countOf, oppReadSize, ackReadMin]

theorem Served.txAckEchoRead {s : State} {a : List Byte} {rest : List DevMove} (h : Served s a rest)
    {b : Block} {n : Nat} (hs : s.seq = .txAckEchoRead b n) :
    Machine.step s = .next
      { s with
        dev := rest, rxq := (s.rxq ++ a).drop n, lkres := .bytes ((s.rxq ++ a).take n)
        log := s.log ++ [.ackEcho .tx b ((s.rxq ++ a).take n)], seq := .txWrite (nextBlock b) 0 } := by
  have he : s.enter = s := by simp [State.enter, hs]
  rw [h.step (i := .lkRead n) (by simp [he, State.request, hs]; rfl) rfl
    (by simp [State.offsetsInside, hs]) rfl (fun w => by simp) (fun w => by simp)]
  simp [he, State.proceed, hs, State.takeBytes, State.goTo, State.addLog, LinkResult.bytesOf]

/-- The LK.CLOSE of a completed transfer (42_receive.md R126, 43_send.md R155). -/
theorem step_completing {s : State} (hs : s.seq = .completing) (hi : s.inputs = [])
    (hl : s.linkOpen = true) :
    Machine.step s = .next
      { s with
        fsm := .complete, seq := .idle, linkOpen := false, rxq := Config.undefinedRxq s.draws
        draws := s.draws + 1, lkres := .done } := by
  have he : s.enter = { s with fsm := .complete } := by simp [State.enter, hs]
  rw [step_engine hi, engineStep_runs (i := .lkClose) (by simp [State.offsetsInside, hs])
    (by simp [State.request, hs]; rfl) rfl]
  simp [exec, execLkClose, State.closePort, he, hl, State.resume, State.proceed, hs, State.finish]

end Sys2Proof.Safety
end

