-- ==== Sys2Proof/Machine/Script.lean ====
section
/-! DEFINITION. The host script notation of 30_encoding.md R73 and the pseudo-instruction of R74, as the queue of
outside events they stand for. -/

namespace Sys2Proof.Machine

/-- One line of a host script (R73, R74). -/
inductive ScriptLine where
  | command (i : Instr)
  | checksum
  | fill (v : Byte)
  | poke (a : Nat) (v : Byte)
  | peek (a : Nat)
  | setlen (n : BitVec 16)
  | rd (n : Nat)
  | reset
deriving DecidableEq, Repr

/-- The events of one line: a command is the write of its code to CMD and the poll that follows; CHECKSUM
expands to VERIFY (R74). -/
def ScriptLine.events : ScriptLine → List Input
  | .command i => [.unit (encode i), .poll]
  | .checksum => [.unit (encode .cmdVerify), .poll]
  | .fill v => (List.range Config.imgLen).map (fun a => .imgWrite a v)
  | .poke a v => [.imgWrite a v]
  | .peek a => [.imgRead a]
  | .setlen n => [.csrWrite 4 n]
  | .rd n => [.csrRead n]
  | .reset => [.reset]

/-- The events of a whole script, in order. -/
def scriptEvents (lines : List ScriptLine) : List Input := lines.flatMap ScriptLine.events

end Sys2Proof.Machine
end

