-- ==== Sys2Proof/Tests/Slice0.lean ====
section
/-! SUPPORT. Tests on small states, each expected value from a vector of 95_test_vectors.md or from a rule by hand,
and one witness for the hypotheses of each statement. -/

namespace Sys2Proof.Tests

open Sys2Proof.Machine Sys2Proof.Safety

/-! ### Helpers -/

/-- The state after a step that answers one. -/
def got (o : Out) : Option State :=
  match o with
  | .next s => some s
  | .fault _ => none
  | .refused _ => none

/-- An idle engine with the link open. -/
def ready (dev : List DevMove) : State := { State.reset with linkOpen := true, dev := dev }

/-- An engine at a place of the pseudocode, with the link open. -/
def placed (p : SeqPos) (dev : List DevMove) : State := { ready dev with seq := p }

/-- A device side that lets one primitive fail. -/
def fails : DevMove := { arrive := [], answer := .fail }

/-- A device side that holds one primitive. -/
def stalls : DevMove := { arrive := [], answer := .stall }

/-- An idle engine with one outside event queued. -/
def told (i : Input) : State := { State.reset with inputs := [i] }

/-- Two bytes in RXQ and two more about to arrive between two steps. -/
def appending (linkOpen : Bool) (wMax : Option Nat) : State :=
  { ready [] with
    linkOpen := linkOpen, cfg := { Config.Params.default with wMax := wMax }
    rxq := [0x41#8, 0x41#8], inputs := [.arrive [0x42#8, 0x42#8]] }

/-- An engine in a SEND at an echo read, after `sent` has been written as byte `i`. -/
def echoing (b : Block) (n : Nat) (i : BitVec 14) (sent : Byte) (echo : List Byte) : State :=
  { placed (.txEcho b n) [supplies echo] with
    txb := sent, idx := i, dir := .tx, fsm := segState b, blk := blockCode b, len := 16211 }

/-- RECV at the read of segment b, everything received so far. -/
def receiving (b : Block) (dev : List DevMove) : State :=
  { placed (.rxRead b) dev with
    dir := .rx, fsm := fsmBefore b, blk := blkBefore b, rxcnt := BitVec.ofNat 16 (segBase b) }

/-! ### Well-formedness (30_encoding.md R64) -/

theorem test_read_size_above_image_refused : Instr.wf (.lkRead 16194) = false := by decide
theorem test_read_size_whole_segment : Instr.wf (.lkRead 16193) = true := by decide
theorem test_write_of_nothing_refused : Instr.wf (.lkWrite []) = false := by decide
theorem test_write_of_two_refused : Instr.wf (.lkWrite [0x06#8, 0x06#8]) = false := by decide
theorem test_write_of_one : Instr.wf (.lkWrite [0x06#8]) = true := by decide
theorem test_break_of_settle_refused : Instr.wf (.lkBreak .tSettle) = false := by decide
theorem test_break_of_timeout_refused : Instr.wf (.lkBreak .tTimeout) = false := by decide

/-! ### Decoding: each row's word, from R62, R64, R67, R68 -/

theorem test_decode_open : decode (.cmd8 0b00000001#8) = .ok .cmdOpen := rfl
theorem test_decode_close : decode (.cmd8 0b00000010#8) = .ok .cmdClose := rfl
theorem test_decode_verify : decode (.cmd8 0b00010000#8) = .ok .cmdVerify := rfl
theorem test_decode_correct : decode (.cmd8 0b00010001#8) = .ok .cmdCorrect := rfl
theorem test_decode_recv : decode (.cmd8 0b00100000#8) = .ok .cmdRecv := rfl
theorem test_decode_send : decode (.cmd8 0b00100001#8) = .ok .cmdSend := rfl
theorem test_decode_lk_open : decode (.lkReq 0b0001#4 .none) = .ok .lkOpen := rfl
theorem test_decode_lk_close : decode (.lkReq 0b0010#4 .none) = .ok .lkClose := rfl
theorem test_decode_lk_read : decode (.lkReq 0b0011#4 (.size 8)) = .ok (.lkRead 8) := rfl
theorem test_decode_lk_write :
    decode (.lkReq 0b0100#4 (.data [0x41#8])) = .ok (.lkWrite [0x41#8]) := rfl
theorem test_decode_lk_break :
    decode (.lkReq 0b0101#4 (.duration .tBreak)) = .ok (.lkBreak .tBreak) := rfl
theorem test_decode_lk_waiting : decode (.lkReq 0b0110#4 .none) = .ok .lkWaiting := rfl
theorem test_decode_lk_flushin : decode (.lkReq 0b0111#4 .none) = .ok .lkFlushin := rfl
theorem test_decode_lk_flushout : decode (.lkReq 0b1000#4 .none) = .ok .lkFlushout := rfl
theorem test_decode_ack : decode (.symbol [0b00000110#8]) = .ok .ack := rfl
theorem test_decode_quirk :
    decode (.symbol [0b11111111#8, 0b11111111#8, 0b00000110#8]) = .ok .quirk := rfl

theorem test_no_request : decode (.lkReq 0b0000#4 .none) = .error .noRequest := rfl
theorem test_reserved_request : decode (.lkReq 0b1001#4 .none) = .error .reservedRequest := rfl
theorem test_illegal_byte : decode (.cmd8 0x30#8) = .error .illegalCommand := rfl
/-- R68: the pattern is matched as a whole byte string (vectors S9, S10). -/
theorem test_quirk_is_whole :
    decode (.symbol [0xFF#8, 0xFF#8]) = .error .unknownSymbol ∧
    decode (.symbol [0xFF#8, 0xFF#8, 0x06#8, 0x00#8]) = .error .unknownSymbol := ⟨rfl, rfl⟩

/-! ### Host commands -/

/-- K17: the device side refuses. -/
theorem test_open_unavailable :
    (got (runFor 2 { told (.unit (.cmd8 0x01#8)) with dev := [fails] })).map
      (fun s => (s.statusReg, s.errReg)) = some (0x00#8, 0x01#8) := by decide
/-- K18: the link is already claimed. -/
theorem test_open_claimed :
    (got (exec .cmdOpen (ready []))).map (fun s => (s.statusReg, s.errReg)) =
      some (0x02#8, 0x01#8) := by decide
/-- K19. -/
theorem test_close_open_link :
    (got (runFor 2 { ready [] with inputs := [.unit (.cmd8 0x02#8)] })).map
      (fun s => (s.statusReg, s.errReg)) = some (0x00#8, 0x00#8) := by decide
/-- E4: CLOSE acknowledges an earlier error. -/
theorem test_close_acknowledges :
    (got (runFor 2 { told (.unit (.cmd8 0x02#8)) with err := .illegalCommand })).map
      (fun s => (s.statusReg, s.errReg)) = some (0x00#8, 0x00#8) := by decide
/-- V21: a length one short, VOK was 1. -/
theorem test_verify_short :
    (got (exec .cmdVerify { State.reset with len := 16210, vok := true })).map
      (fun s => (s.vok, s.errReg)) = some (false, 0x02#8) := by decide
/-- V24: a length one too long. -/
theorem test_correct_long :
    (got (exec .cmdCorrect { State.reset with len := 16212 })).map
      (fun s => (s.img, s.errReg)) = some ([], 0x02#8) := by decide
/-- Q1, Z5. -/
theorem test_recv_closed :
    (got (exec .cmdRecv State.reset)).map (fun s => (s.statusReg, s.errReg, s.fsmReg)) =
      some (0x00#8, 0x01#8, 0x08#8) := by decide
/-- Q11: what the acceptance clears. -/
theorem test_recv_clears :
    (got (exec .cmdRecv { ready [] with
      recov1 := true, recov2 := true, mmcnt := 3, erridx := 7, dir := .tx, fsm := .aborted })).map
      (fun s => (s.statusReg, s.mmcnt, s.erridx, s.fsmReg)) =
      some (0x03#8, 0x00#8, 0x0000#16, 0x08#8) := by decide
/-- S22: the length is checked before the link. -/
theorem test_send_short_and_closed :
    (got (exec .cmdSend { State.reset with len := 16210 })).map
      (fun s => (s.errReg, s.fsmReg)) = some (0x02#8, 0x10#8) := by decide
/-- S21. -/
theorem test_send_closed :
    (got (exec .cmdSend { State.reset with len := 16211 })).map
      (fun s => (s.statusReg, s.errReg, s.fsmReg)) = some (0x00#8, 0x01#8, 0x10#8) := by decide

/-! ### Link primitives and symbols -/

/-- K16. -/
theorem test_lk_open_available :
    (got (exec .lkOpen { State.reset with dev := [supplies [0x41#8]] })).map
      (fun s => (s.linkOpen, s.rxq, s.lkres)) = some (true, [0x41#8], .done) := by decide
/-- R82. -/
theorem test_lk_close :
    (got (exec .lkClose (ready []))).map (fun s => (s.linkOpen, s.lkres)) =
      some (false, .done) := by decide
/-- K1. -/
theorem test_lk_read :
    (got (exec (.lkRead 2) { ready [supplies []] with rxq := [0x41#8, 0x42#8, 0x43#8] })).map
      (fun s => (s.lkres, s.rxq)) = some (.bytes [0x41#8, 0x42#8], [0x43#8]) := by decide
/-- K2. -/
theorem test_lk_read_short :
    (got (exec (.lkRead 3) { ready [supplies []] with rxq := [0x41#8] })).map
      (fun s => (s.lkres, s.rxq)) = some (.bytes [0x41#8], []) := by decide
/-- K8. -/
theorem test_lk_write :
    (got (exec (.lkWrite [0x06#8]) { ready [supplies []] with
      wire := [.byte 0x55#8], rxq := [0x41#8] })).map (fun s => (s.wire, s.rxq)) =
      some ([.byte 0x55#8, .byte 0x06#8], [0x41#8]) := by decide
/-- K9. -/
theorem test_lk_break :
    (got (exec (.lkBreak .tBreak) { ready [supplies []] with wire := [.byte 0x55#8] })).map
      (fun s => s.wire) = some [.byte 0x55#8, .brk .tBreak] := by decide
/-- K6. -/
theorem test_lk_waiting :
    (got (exec .lkWaiting { ready [supplies []] with rxq := [0xFF#8, 0xFF#8, 0x06#8] })).map
      (fun s => (s.lkres, s.rxq)) = some (.count 3, [0xFF#8, 0xFF#8, 0x06#8]) := by decide
/-- K7. -/
theorem test_lk_flushin :
    (got (exec .lkFlushin { ready [supplies []] with rxq := [0x00#8, 0x55#8] })).map
      (fun s => s.rxq) = some [] := by decide
/-- K10. -/
theorem test_lk_flushout :
    (got (exec .lkFlushout { ready [supplies []] with rxq := [0x55#8] })).map
      (fun s => (s.rxq, s.wire)) = some ([0x55#8], []) := by decide
/-- R67: ACK is LK.WRITE of the one byte 0x06. -/
theorem test_ack :
    (got (exec .ack (ready [supplies []]))).map (fun s => s.wire) = some [.byte 0x06#8] := by decide
/-- S6. -/
theorem test_quirk :
    (got (exec .quirk (echoing .one 3 3 0xFF#8 []))).map
      (fun s => (s.recov1, s.log, s.seq, s.mmcnt)) =
      some (true, [.quirk .one 3], .txSettle .one, 0x00#8) := by decide
/-- S7. -/
theorem test_quirk_final :
    (got (exec .quirk (echoing .three 3 3 0xFF#8 []))).map
      (fun s => (s.errReg, s.erridx, s.fsmReg, s.recov1)) =
      some (0x03#8, 0x0003#16, 0x16#8, false) := by decide

/-! ### The engine's own decisions -/

/-- S3. -/
theorem test_silence_in_the_final_block :
    (got (step (echoing .three 1 5 0x41#8 []))).map
      (fun s => (s.errReg, s.erridx, s.log)) =
      some (0x03#8, 0x0005#16, [.fatal .three 5 0x41#8 []]) := by decide
/-- S4. -/
theorem test_burst_is_a_mismatch :
    (got (step (echoing .one 2 5 0x41#8 [0x41#8, 0x41#8]))).map
      (fun s => (s.mmcnt, s.log, s.seq)) =
      some (0x01#8, [.mismatch .one 5 0x41#8 [0x41#8, 0x41#8]], .txWrite .one 6) := by decide
/-- S8. -/
theorem test_quirk_pattern_for_another_byte :
    (got (step (echoing .one 3 5 0xFE#8 [0xFF#8, 0xFF#8, 0x06#8]))).map
      (fun s => (s.mmcnt, s.recov1)) = some (0x01#8, false) := by decide
/-- S12: an exact read of one byte cannot see the quirk. -/
theorem test_last_byte_read_is_exact :
    (got (step (echoing .one 1 9 0xFF#8 [0xFF#8, 0xFF#8, 0x06#8]))).map
      (fun s => (s.recov1, s.rxq, s.seq)) = some (false, [0xFF#8, 0x06#8], .txSettle .one) := by decide
/-- R71, R148: before the last byte the echo read takes all that waits, and at least one byte. -/
theorem test_echo_read_size :
    (got (step { echoing .one 1 0 0xFF#8 [0xFF#8, 0xFF#8, 0x06#8] with seq := .txWaiting .one })).map
      (fun s => s.seq) = some (.txEcho .one 3) ∧
    (got (step { echoing .one 1 0 0xFF#8 [] with seq := .txWaiting .one })).map (fun s => s.seq) =
      some (.txEcho .one 1) := by decide
/-- R83: bytes beyond the first n of a segment read stay for the next read. -/
theorem test_segment_read_leaves_the_rest :
    (got (step (receiving .one [supplies (List.replicate 10 0x41#8 ++ [0x42#8, 0x43#8])]))).map
      (fun s => (s.rxq, s.rxcnt, s.seq)) = some ([0x42#8, 0x43#8], 10#16, .rxSettle .one) := by decide
/-- R73: a poll lets the engine step while BUSY = 1 and stays queued. -/
theorem test_poll_lets_the_engine_step :
    (got (step { placed .txFlushOut [supplies []] with inputs := [.poll] })).map
      (fun s => (s.seq, s.inputs)) = some (.txWrite .one 0, [.poll]) := by decide
/-- R218: nothing is observed while BUSY = 1; IMG only if ERR = 0, and after VERIFY always. -/
theorem test_observable_image :
    observe 0x21#8 (placed .completing []) = none ∧
    imgObservable 0x20#8 { ready [] with err := .lengthMismatch } = false ∧
    imgObservable 0x20#8 (ready []) = true ∧
    imgObservable 0x10#8 { ready [] with err := .checksumInvalid } = true := by decide
/-- R159: a rejected SEND has no block results; a SEND whose link failed in block 2 has that of block 1 only. -/
theorem test_block_results_of_an_unfinished_send :
    [Block.one, .two, .three].map
      (fun b => blockResult b { ready [] with dir := .tx, err := .lengthMismatch }) =
      [none, none, none] ∧
    [Block.one, .two, .three].map
      (fun b => blockResult b
        { ready [] with dir := .tx, err := .linkUnavailable, fsm := .aborted, blk := 2, recov1 := true }) =
      [some .recoverable, none, none] ∧
    [Block.one, .two, .three].map
      (fun b => blockResult b
        { ready [] with dir := .tx, err := .echoMismatchFatal, fsm := .aborted, blk := 3, erridx := 5 }) =
      [some .ok, some .ok, some (.fatal 5)] := by decide
/-- V4: the first two sums of the ramp IMG[k] = k mod 256 are 0xAF and 0x2F. -/
theorem test_ramp_region_one :
    ({ State.reset with img := (List.range' 0x592 127).map fun k => (k, BitVec.ofNat 8 k) } :
      State).computed .one = 0xAF#8 := by decide +kernel
theorem test_ramp_region_two :
    ({ State.reset with img := (List.range' 0x612 127).map fun k => (k, BitVec.ofNat 8 k) } :
      State).computed .two = 0x2F#8 := by decide +kernel
/-- E6, E7. -/
theorem test_cmd_reads_zero :
    (got (step { told (.csrRead 0) with hrd := 0x1234 })).map (fun s => s.hrd) = some 0 := by decide
theorem test_read_only_registers_ignore_writes :
    (got (step (told (.csrWrite 5 0x1234)))).map (fun s => s.erridx) = some 0 := by decide
/-- Z2. -/
theorem test_reset_while_sending :
    (got (step { placed (.txWrite .three 100) [] with inputs := [.reset], wire := [.byte 0x01#8] })).map
      (fun s => (s.statusReg, s.errReg, s.fsmReg, s.wire)) =
      some (0x00#8, 0x00#8, 0x00#8, []) := by decide

/-! ### Witnesses: states and operands that meet the hypotheses of each statement -/

theorem witness_DecodeAndEncodeAreInverse :
    Instr.wf (.lkRead 0) = true ∧ Instr.wf (.lkRead 16193) = true ∧ Instr.wf .quirk = true ∧
      decode (.lkReq 0x3#4 (.size 16193)) = .ok (.lkRead 16193) := ⟨by decide, by decide, rfl, rfl⟩

/-- A command while a SEND runs, and a link request while none does. -/
theorem witness_StepRunsThePresentedInstruction :
    (∃ s : State, s.inputs = .unit (.cmd8 0x21#8) :: [] ∧ decode (.cmd8 0x21#8) = .ok .cmdSend ∧
      Instr.wf .cmdSend = true ∧ ((CodeUnit.cmd8 0x21#8).port = .cmd ∨ s.busy = false) ∧ s.busy = true) ∧
    (∃ s : State, s.inputs = .unit (.lkReq 0x3#4 (.size 16193)) :: [] ∧
      decode (.lkReq 0x3#4 (.size 16193)) = .ok (.lkRead 16193) ∧ Instr.wf (.lkRead 16193) = true ∧
      ((CodeUnit.lkReq 0x3#4 (.size 16193)).port = .cmd ∨ s.busy = false)) :=
  ⟨⟨{ placed .txFlushIn [] with inputs := [.unit (.cmd8 0x21#8)] }, rfl, rfl, rfl, .inl rfl, rfl⟩,
    ⟨told (.unit (.lkReq 0x3#4 (.size 16193))), rfl, rfl, rfl, .inr rfl⟩⟩

/-- An LK.OPEN and an ACK. -/
theorem witness_EngineStepRunsTheInstructionOfItsPlace :
    ((placed .openLink []).inputs = [] ∧ (placed .openLink []).offsetsInside = true ∧
      (placed .openLink []).enter.request = some (.lkReq 0x1#4 .none) ∧
      decode (.lkReq 0x1#4 .none) = .ok .lkOpen) ∧
    ((placed (.txAck .one) []).inputs = [] ∧ (placed (.txAck .one) []).offsetsInside = true ∧
      (placed (.txAck .one) []).enter.request = some (.symbol [0x06#8]) ∧
      decode (.symbol [0x06#8]) = .ok .ack) :=
  ⟨⟨rfl, rfl, rfl, rfl⟩, rfl, rfl, rfl, rfl⟩

theorem witness_FetchedWordIsRunNext :
    decodeTableWord 8 0x01 = some .cmdOpen ∧ decodeTableWord 4 0x8 = some .lkFlushout ∧
      decodeTableWord 24 0xFFFF06 = some .quirk := by decide

theorem witness_IdleEngineDoesNothing : State.reset.inputs = [] ∧ State.reset.busy = false := by decide

theorem witness_BusyDropsEveryCommandByte :
    ({ placed .txFlushIn [] with inputs := [.unit (.cmd8 0x30#8)] } : State).busy = true ∧
      ({ placed .txFlushIn [] with inputs := [.csrWrite 0 0x0121] } : State).busy = true ∧
      Instr.cmdSend.port = .cmd := by decide

/-- The least and the greatest illegal byte. -/
theorem witness_IllegalCommandSetsErrOnly :
    ((told (.unit (.cmd8 0x00#8))).busy = false ∧
      0x00#8 ∉ [0x01#8, 0x02#8, 0x10#8, 0x11#8, 0x20#8, 0x21#8] ∧
      (told (.unit (.cmd8 0x00#8))).inputs = .unit (.cmd8 0x00#8) :: []) ∧
    ((told (.unit (.cmd8 0xFF#8))).busy = false ∧
      0xFF#8 ∉ [0x01#8, 0x02#8, 0x10#8, 0x11#8, 0x20#8, 0x21#8] ∧
      (told (.unit (.cmd8 0xFF#8))).inputs = .unit (.cmd8 0xFF#8) :: []) := by decide

/-- Each clause: a claimed link, and the two answers of the device side on a closed one. -/
theorem witness_OpenClaimsTheLinkOrRaises :
    ((ready []).busy = false ∧ (ready []).inputs = [] ∧ (ready []).linkOpen = true) ∧
    (let s : State := { State.reset with dev := [supplies []] };
      s.busy = false ∧ s.inputs = [] ∧ s.linkOpen = false ∧ s.nextMove.answer = .ok) ∧
    (let s : State := { State.reset with dev := [fails] };
      s.busy = false ∧ s.inputs = [] ∧ s.linkOpen = false ∧ s.nextMove.answer = .fail) := by decide

theorem witness_CloseReleasesTheLinkAndIsIdempotent :
    ((ready []).busy = false ∧ (ready []).inputs = [] ∧ (ready []).linkOpen = true) ∧
    (State.reset.busy = false ∧ State.reset.inputs = [] ∧ State.reset.linkOpen = false) := by decide

/-- LEN one short, exact, one too long. -/
theorem witness_VerifyReportsInVokAndErr :
    (let s : State := { State.reset with len := 16210 };
      s.busy = false ∧ s.inputs = [] ∧ s.len.toNat ≠ 16211) ∧
    (let s : State := { State.reset with len := 16211 };
      s.busy = false ∧ s.inputs = [] ∧ s.len.toNat = 16211) ∧
    (let s : State := { State.reset with len := 16212 };
      s.busy = false ∧ s.inputs = [] ∧ s.len.toNat ≠ 16211) := by decide

theorem witness_CorrectRunsThePassOrRejects :
    (let s : State := { State.reset with len := 16210 };
      s.busy = false ∧ s.inputs = [] ∧ s.len.toNat ≠ 16211) ∧
    (let s : State := { State.reset with len := 16211 };
      s.busy = false ∧ s.inputs = [] ∧ s.len.toNat = 16211) := by decide

/-- The neighbours of the checkbytes are no checkbytes. -/
theorem witness_CorrectChangesOnlyCheckbytes :
    isCheckbyte 0x610 = false ∧ isCheckbyte 0x612 = false ∧ isCheckbyte 0x690 = false ∧
      isCheckbyte 0x3F51 = false ∧ isCheckbyte 0 = false ∧ isCheckbyte 0x3F52 = true := by decide

/-- Two images that differ at a checkbyte only. -/
theorem witness_CheckbytesDependOnOtherBytesOnly :
    ∀ a, a < 16211 → isCheckbyte a = false →
      ({ State.reset with img := [(0x611, 1#8)] } : State).imgByte a =
        ({ State.reset with img := [(0x611, 2#8)] } : State).imgByte a := by
  intro a _ h
  have ha : ¬(0x611 = a) := by rintro rfl; exact absurd h (by decide)
  simp [State.imgByte, Memory.lookup, ha]

/-- RECV and SEND in every case: link open or closed, LEN right or wrong. -/
theorem witness_RecvStartsASessionOrIsRejected :
    (ready []).busy = false ∧ (ready []).linkOpen = true ∧ State.reset.busy = false ∧
      State.reset.linkOpen = false := by decide

theorem witness_SendChecksLengthThenLink :
    ({ ready [] with len := 16211 } : State).busy = false ∧
      ({ ready [] with len := 16211 } : State).len.toNat = 16211 := by decide

theorem witness_LkOpenTakesTheDeviceSidesAnswer :
    (ready [supplies []]).nextMove.answer = .ok ∧ (ready [fails]).nextMove.answer = .fail ∧
      (ready [stalls]).nextMove.answer = .stall := by decide

theorem witness_LkCloseReleasesAndIsIdempotent :
    State.reset.linkOpen = false ∧ (ready []).linkOpen = true := by decide

/-- A primitive that returns, and one whose failure LINKFAIL = false ignores. -/
theorem witness_LkReadTakesTheFirstBytes :
    (let s := ready [supplies []];
      s.linkOpen = true ∧ (s.nextMove.answer = .fail → s.cfg.linkFail = false)) ∧
    (let s : State := { ready [fails] with cfg := { Config.Params.default with linkFail := false } };
      s.linkOpen = true ∧ s.nextMove.answer = .fail ∧
        (s.nextMove.answer = .fail → s.cfg.linkFail = false)) := by decide

theorem witness_LkWriteAckAndBreakAppendToWire :
    let s := ready [supplies [0x41#8]]
    s.linkOpen = true ∧ s.nextMove.answer ≠ .stall ∧
      (s.nextMove.answer = .fail → s.cfg.linkFail = false) := by decide

theorem witness_LkWaitingCountsAndFlushesDiscardInput :
    let s := ready [supplies [0x41#8]]
    s.linkOpen = true ∧ (s.nextMove.answer = .fail → s.cfg.linkFail = false) := by decide

/-- Two bytes appended to two with room for exactly four, with room for three, without a bound and with the link
closed; both Delays. -/
theorem witness_DeviceSideOnlyAppendsToTheQueue :
    (let s := appending true (some 4);
      s.inputs = [.arrive [0x42#8, 0x42#8]] ∧ s.linkOpen = true ∧
        (∀ w, s.cfg.wMax = some w → s.rxq.length + [0x42#8, 0x42#8].length ≤ w)) ∧
    (let s := appending true none;
      s.inputs = [.arrive [0x42#8, 0x42#8]] ∧ s.linkOpen = true ∧
        (∀ w, s.cfg.wMax = some w → s.rxq.length + [0x42#8, 0x42#8].length ≤ w)) ∧
    (let s := appending true (some 3);
      s.inputs = [.arrive [0x42#8, 0x42#8]] ∧ s.linkOpen = true ∧ s.cfg.wMax ≠ none ∧
        (∀ w, s.cfg.wMax = some w → w < s.rxq.length + [0x42#8, 0x42#8].length)) ∧
    (appending false (some 4)).inputs = [.arrive [0x42#8, 0x42#8]] ∧
    (appending false (some 4)).linkOpen = false ∧
    (placed (.rxSettle .two) [supplies []]).inputs = [] ∧
    (placed (.rxSettle .two) [supplies []]).seq = .rxSettle .two ∧
    (placed (.txSettle .one) [supplies []]).inputs = [] ∧
    (placed (.txSettle .one) [supplies []]).seq = .txSettle .one :=
  ⟨⟨rfl, rfl, fun w h => by cases h; decide⟩, ⟨rfl, rfl, fun w h => by cases h⟩,
    ⟨rfl, rfl, by decide, fun w h => by cases h; decide⟩, rfl, rfl, rfl, rfl, rfl, rfl⟩

theorem witness_FailedPrimitiveHasNoEffect :
    ((ready [fails]).linkOpen = true ∧ (ready [fails]).nextMove.answer = .fail ∧
      (ready [fails]).cfg.linkFail = true) ∧
    ((ready [stalls]).linkOpen = true ∧ (ready [stalls]).nextMove.answer = .stall) := by decide

theorem witness_ClosedLinkRefusesPrimitives : State.reset.linkOpen = false := by decide

/-- The first byte of block 1 and the last of block 2 that can see the pattern. -/
theorem witness_QuirkEndsTheBlockAsRecoverable :
    ((echoing .one 3 0 0xFF#8 []).seq = .txEcho .one 3 ∧ Block.one ≠ .three ∧
      (echoing .one 3 0 0xFF#8 []).txb = 0xFF#8) ∧
    ((echoing .two 3 6 0xFF#8 []).seq = .txEcho .two 3 ∧ Block.two ≠ .three ∧
      (echoing .two 3 6 0xFF#8 []).txb = 0xFF#8) ∧ 3 ≤ 3 := by decide

theorem witness_QuirkPatternElsewhereIsAMismatch :
    (echoing .three 3 16191 0xFF#8 []).seq = .txEcho .three 3 ∧
      (echoing .one 3 8 0xFE#8 []).seq = .txEcho .one 3 ∧ (echoing .one 3 8 0xFE#8 []).txb ≠ 0xFF#8 := by
  decide

/-- No echo read, and one too short by one byte. -/
theorem witness_QuirkPatternOutsideAnEchoReadDoesNothing :
    (∀ b n, State.reset.seq = .txEcho b n → n < 3) ∧
    (∀ b n, (echoing .one 2 3 0xFF#8 []).seq = .txEcho b n → n < 3) := by
  constructor
  · intro b n h; cases h
  · intro b n h; cases h; decide

/-- The last offset and the first beyond it while idle, and an access while busy. -/
theorem witness_HostImageAccess :
    ((told (.imgRead 0x3F52)).inputs = .imgRead 0x3F52 :: [] ∧ (told (.imgRead 0x3F52)).busy = false ∧
      0x3F52 ≤ 0x3F52) ∧
    ((told (.imgRead 0x3F53)).inputs = .imgRead 0x3F53 :: [] ∧ (told (.imgRead 0x3F53)).busy = false ∧
      0x3F52 < 0x3F53) ∧
    ((told (.imgWrite 0x3F52 0x41#8)).inputs = .imgWrite 0x3F52 0x41#8 :: [] ∧
      (told (.imgWrite 0x3F52 0x41#8)).busy = false) ∧
    ((told (.imgWrite 0x3F53 0x41#8)).inputs = .imgWrite 0x3F53 0x41#8 :: [] ∧
      (told (.imgWrite 0x3F53 0x41#8)).busy = false) ∧
    (let s : State := { placed .txFlushIn [] with inputs := [.imgWrite 0 0x41#8] };
      s.inputs = .imgWrite 0 0x41#8 :: [] ∧ s.busy = true) := by decide

/-- LEN idle and busy and the edges of the CSR numbers; a poll and a turn while a command runs and while none does. -/
theorem witness_HostReadsCsrsAndPolls :
    ((told (.csrRead 4)).inputs = .csrRead 4 :: [] ∧ (told (.csrRead 4)).busy = false) ∧
    (let s : State := { placed .txFlushIn [] with inputs := [.csrRead 4] };
      s.inputs = .csrRead 4 :: [] ∧ s.busy = true) ∧
    (told (.csrRead 6)).inputs = .csrRead 6 :: [] ∧ (told (.csrRead 7)).inputs = .csrRead 7 :: [] ∧
    6 < 7 ∧
    (let s : State := { placed .txFlushIn [supplies []] with inputs := [.poll] };
      s.inputs = .poll :: [] ∧ s.busy = true) ∧
    ((told .poll).inputs = .poll :: [] ∧ (told .poll).busy = false) ∧
    ({ placed .txFlushIn [supplies []] with inputs := [.turn] } : State).inputs = .turn :: [] ∧
    (told .turn).inputs = .turn :: [] := by decide

theorem witness_HostWritesCsrs :
    (told (.csrWrite 0 0x0001)).inputs = .csrWrite 0 0x0001 :: [] ∧
    ((told (.csrWrite 4 16211)).inputs = .csrWrite 4 16211 :: [] ∧
      (told (.csrWrite 4 16211)).busy = false) ∧
    (let s : State := { placed .txFlushIn [] with inputs := [.csrWrite 4 16211] };
      s.inputs = .csrWrite 4 16211 :: [] ∧ s.busy = true) ∧
    ((told (.csrWrite 6 0)).inputs = .csrWrite 6 0 :: [] ∧ 6 ∈ [1, 2, 3, 5, 6]) ∧
    (told (.csrWrite 7 0)).inputs = .csrWrite 7 0 :: [] := by decide

theorem witness_ResetInputRestoresResetValues :
    ({ placed (.txWrite .three 100) [] with inputs := [.reset] } : State).inputs = [.reset] := by decide

theorem witness_AbortKeepsEverythingElse :
    (placed (.rxRead .three) []).seq.inTransfer = true ∧ (placed (.rxRead .three) []).linkOpen = true ∧
      (placed (.rxRead .three) []).inputs = [] := by decide

theorem witness_RejectionSetsErrOnly : (ready []).seq.inTransfer = false := by decide

/-- A SEND at an echo read, with the registers that place has. -/
theorem echoing_inv : Inv (echoing .one 2 5 0x41#8 [0x41#8, 0x41#8]) :=
  ⟨by decide, by decide, by decide,
    ⟨⟨⟨rfl, rfl, rfl⟩, rfl, rfl⟩, rfl, by decide⟩, by decide, by decide, by decide⟩

theorem witness_LinkFailureAbortsTheTransfer :
    ∃ (s : State) (u : CodeUnit), Inv s ∧ s.inputs = [] ∧ s.seq.inTransfer = true ∧
      s.enter.request = some u ∧ u ≠ .lkReq 0x2#4 .none ∧ s.cfg.linkFail = true ∧
      s.nextMove.answer = .fail :=
  ⟨{ echoing .one 2 5 0x41#8 [] with dev := [fails] }, .lkReq 0x3#4 (.size 2),
    ⟨by decide, by decide, by decide,
      ⟨⟨⟨rfl, rfl, rfl⟩, rfl, rfl⟩, rfl, by decide⟩, by decide, by decide, by decide⟩,
    rfl, rfl, rfl, by decide, rfl, rfl⟩

/-- A break of block 1 that does not return, and an LK.OPEN. -/
theorem witness_UnreturnedPrimitiveHoldsTheEngine :
    (∃ s : State, Inv s ∧ s.inputs = [] ∧ s.nextMove.answer = .stall ∧ s.seq = .txBreak .one) ∧
    (∃ s : State, Inv s ∧ s.inputs = [] ∧ s.nextMove.answer = .stall ∧ s.seq = .openLink) :=
  ⟨⟨{ echoing .one 2 5 0x41#8 [] with seq := .txBreak .one, dev := [stalls] },
      ⟨by decide, by decide, by decide,
        ⟨⟨⟨rfl, rfl, rfl⟩, rfl, rfl⟩, rfl, by decide⟩, by decide, by decide⟩, rfl, rfl, rfl⟩,
    ⟨{ State.reset with seq := .openLink, dev := [stalls] },
      ⟨by decide, by decide, by decide, .inl rfl, rfl, rfl⟩, rfl, rfl, rfl⟩⟩

/-- Segment 1 short by one byte, segment 2 with two bytes to spare, segment 3 silent, and (vector Q8) segment 3 in
full with five bytes to spare. -/
theorem witness_SegmentReadStoresInArrivalOrder :
    (let s := receiving .one [supplies (List.replicate 9 0x41#8)];
      s.seq = .rxRead .one ∧ s.inputs = [] ∧ s.linkOpen = true ∧ s.rxcnt.toNat ≤ segBase .one ∧
        (s.nextMove.answer = .fail → s.cfg.linkFail = false)) ∧
    (let s := receiving .two [supplies (List.replicate 10 0x41#8)];
      s.seq = .rxRead .two ∧ s.inputs = [] ∧ s.linkOpen = true ∧ s.rxcnt.toNat ≤ segBase .two ∧
        (s.nextMove.answer = .fail → s.cfg.linkFail = false)) ∧
    (let s := receiving .three [supplies []];
      s.seq = .rxRead .three ∧ s.inputs = [] ∧ s.linkOpen = true ∧ s.rxcnt.toNat ≤ segBase .three ∧
        (s.nextMove.answer = .fail → s.cfg.linkFail = false)) ∧
    ∃ s : State, s.seq = .rxRead .three ∧ s.inputs = [] ∧ s.linkOpen = true ∧
      s.rxcnt.toNat ≤ segBase .three ∧ (s.nextMove.answer = .fail → s.cfg.linkFail = false) ∧
      (enqueue s.cfg.wMax s.rxq s.nextMove.arrive).length = segLen .three + 5 := by
  refine ⟨by decide, by decide, by decide, ?_⟩
  obtain ⟨d, h⟩ : ∃ d : List Byte, d.length = segLen .three + 5 :=
    ⟨List.replicate (segLen .three + 5) 0x41#8, List.length_replicate⟩
  exact ⟨receiving .three [supplies d], rfl, rfl, rfl, show 18 ≤ 18 by decide, (fun e => by cases e), h⟩

/-- The device is silent in segment 3: RXCNT stays 18. -/
theorem witness_LengthMismatchExactlyOnUnderrun :
    let s := receiving .three [supplies []]
    Inv s ∧ s.inputs = [] ∧ s.seq = .rxRead .three ∧
      (s.nextMove.answer = .fail → s.cfg.linkFail = false) :=
  ⟨⟨by decide, by decide, by decide,
    ⟨⟨rfl, rfl, rfl⟩, rfl, rfl, ⟨by decide, by decide⟩, rfl⟩⟩, rfl, rfl, by decide⟩

/-- The device sends exactly 10, 8 and 16193 bytes. -/
theorem witness_CleanRecvDeliversTheCorrectedImage :
    ∃ (s : State) (d₁ d₂ d₃ e₁ e₂ : List Byte), s.busy = false ∧ s.inputs = [] ∧ s.linkOpen = true ∧
      s.cfg.wMax = none ∧ d₁.length = 10 ∧ d₂.length = 8 ∧ d₃.length = 16193 ∧ e₁.length = 1 ∧
      e₂.length = 1 ∧
      s.dev = [supplies [], supplies [], supplies d₁, supplies [], supplies [], supplies e₁,
        supplies d₂, supplies [], supplies [], supplies e₂, supplies d₃] ++ [] := by
  obtain ⟨d₃, h⟩ : ∃ d₃ : List Byte, d₃.length = 16193 :=
    ⟨List.replicate 16193 0x41#8, List.length_replicate⟩
  exact ⟨ready [supplies [], supplies [], supplies (List.replicate 10 0x41#8), supplies [],
    supplies [], supplies [0x06#8], supplies (List.replicate 8 0x41#8), supplies [], supplies [],
    supplies [0x15#8], supplies d₃], _, _, d₃, _, _, rfl, rfl, rfl, rfl, by simp, by simp, h, rfl, rfl,
    rfl⟩

/-- Each clause: an echo read sized with nothing and with three bytes waiting, a match before and at the end of a
block, a fatal mismatch at the last byte, the quirk at the
last byte but one, a passed mismatch at the last byte. -/
theorem witness_EchoDecidesTheNextByte :
    let ok := fun (s : State) (b : Block) (n : Nat) => s.seq = .txEcho b n ∧ s.inputs = [] ∧
      s.linkOpen = true ∧ (s.nextMove.answer = .fail → s.cfg.linkFail = false)
    let read := fun (s : State) (n : Nat) => (enqueue s.cfg.wMax s.rxq s.nextMove.arrive).take n
    (let s := { echoing .two 1 6 0x41#8 [] with seq := .txWaiting .two };
      s.seq = .txWaiting .two ∧ s.inputs = [] ∧ s.linkOpen = true ∧
        (s.nextMove.answer = .fail → s.cfg.linkFail = false) ∧
        enqueue s.cfg.wMax s.rxq s.nextMove.arrive = []) ∧
    (let s := { echoing .one 1 0 0xFF#8 [0xFF#8, 0xFF#8, 0x06#8] with seq := .txWaiting .one };
      s.seq = .txWaiting .one ∧ s.inputs = [] ∧ s.linkOpen = true ∧
        (s.nextMove.answer = .fail → s.cfg.linkFail = false) ∧
        (enqueue s.cfg.wMax s.rxq s.nextMove.arrive).length = 3) ∧
    (let s := echoing .two 1 6 0x41#8 [0x41#8];
      ok s .two 1 ∧ read s 1 = [s.txb] ∧ s.idx.toNat + 1 < segLen .two) ∧
    (let s := echoing .two 1 7 0x41#8 [0x41#8];
      ok s .two 1 ∧ read s 1 = [s.txb] ∧ ¬ s.idx.toNat + 1 < segLen .two) ∧
    (let s := echoing .three 1 16192 0x00#8 [];
      ok s .three 1 ∧ read s 1 ≠ [s.txb]) ∧
    (let s := echoing .one 3 8 0xFF#8 [0xFF#8, 0xFF#8, 0x06#8];
      ok s .one 3 ∧ s.txb = 0xFF#8 ∧ read s 3 = [0xFF#8, 0xFF#8, 0x06#8]) ∧
    (let s := echoing .one 1 9 0x41#8 [];
      ok s .one 1 ∧ read s 1 ≠ [s.txb] ∧ s.txb ≠ 0xFF#8) := by decide

/-- A device side that lets the primitive return, at any place of a transfer. -/
theorem placed_returns (p : SeqPos) (a : List Byte) : Returns (placed p [supplies a]) :=
  ⟨rfl, rfl, by simp [placed, ready, supplies, State.nextMove], by intro h; cases h⟩

/-- Every clause: the places of RECV and of SEND, the first and the last byte of a block, a break after the last
byte and before it. -/
theorem witness_TransferStepsForEveryDevice :
    (∀ p ∈ [SeqPos.rxFlushIn, .rxFlushOut, .rxAck .one, .rxEcho .two, .rxCorrect, .txCorrect, .txFlushIn,
        .txFlushOut, .txWrite .one 0, .txWrite .two 7, .txWrite .three 16192, .txBreak .two,
        .txAckWaiting .one, .txAckRead .one 3, .txAck .two, .txAckEchoWaiting .two, .txAckEchoRead .two 1,
        .completing],
      Returns (placed p [supplies [0x41#8]]) ∧ (placed p [supplies [0x41#8]]).seq = p) ∧
    0 < segLen .one ∧ 7 + 1 = segLen .two ∧ 16192 + 1 = segLen .three ∧
    ({ placed (.txBreak .one) [] with idx := 9 } : State).idx.toNat + 1 = segLen .one ∧
    ({ placed (.txBreak .one) [] with idx := 8 } : State).idx.toNat + 1 ≠ segLen .one ∧
    -- a device side whose failure LINKFAIL = false ignores
    Returns { placed .txFlushOut [fails] with cfg := { Config.Params.default with linkFail := false } } :=
  ⟨fun p _ => ⟨placed_returns p _, rfl⟩, by decide, by decide, by decide, by decide, by decide,
    ⟨rfl, rfl, by decide, fun _ => rfl⟩⟩

theorem witness_FinalBlockMismatchAbortsAtOnce :
    let s := echoing .three 1 5 0x00#8 [0x01#8]
    s.seq = .txEcho .three 1 ∧ s.inputs = [] ∧ s.linkOpen = true ∧
      (s.nextMove.answer = .fail → s.cfg.linkFail = false) ∧ s.dir = .tx ∧
      (enqueue s.cfg.wMax s.rxq s.nextMove.arrive).take 1 ≠ [s.txb] := by decide

/-- Both non-final blocks, with a device side that answers nothing. -/
theorem witness_AckExchangeChecksNoContent :
    (let s := placed (.txSettle .one) (List.replicate 6 (supplies []));
      s.seq = .txSettle .one ∧ Block.one ≠ .three ∧ s.inputs = [] ∧ s.linkOpen = true ∧
        s.cfg.wMax = none ∧
        s.dev = [supplies [], supplies [], supplies [], supplies [], supplies [], supplies []] ++ []) ∧
    (let s := placed (.txSettle .two) (List.replicate 6 (supplies []));
      s.seq = .txSettle .two ∧ Block.two ≠ .three ∧ s.inputs = [] ∧ s.linkOpen = true ∧
        s.cfg.wMax = none ∧
        s.dev = [supplies [], supplies [], supplies [], supplies [], supplies [], supplies []] ++ []) := by
  decide

/-- Every block. -/
theorem witness_FaithfulEchoSendsTheWholeBlock (b : Block) :
    ∃ s : State, s.seq = .txWrite b 0 ∧ s.inputs = [] ∧ s.linkOpen = true ∧ s.cfg.wMax = none ∧
      s.rxq = [] ∧ s.dev = faithfulBlock b s ++ [] := by
  obtain ⟨moves, hm⟩ : ∃ moves, moves = faithfulBlock b State.reset := ⟨_, rfl⟩
  refine ⟨placed (.txWrite b 0) moves, rfl, rfl, rfl, rfl, rfl, ?_⟩
  have h : (placed (.txWrite b 0) moves).imgByte = State.reset.imgByte :=
    State.imgByte_congr rfl rfl
  rw [List.append_nil]
  show moves = _
  refine hm.trans ?_
  unfold faithfulBlock
  rw [h]

/-- The moves of a faithful device depend on IMG alone. -/
theorem faithfulSend_congr {s t : State} (h : t.imgByte = s.imgByte) (d₁ e₁ d₂ e₂ : List Byte) :
    faithfulSend t d₁ e₁ d₂ e₂ = faithfulSend s d₁ e₁ d₂ e₂ := by
  unfold faithfulSend faithfulBlock
  rw [h]

theorem witness_FaithfulSendTransmitsTheCorrectedImage :
    ∃ s : State, s.busy = false ∧ s.inputs = [] ∧ s.linkOpen = true ∧ s.cfg.wMax = none ∧
      s.len.toNat = 16211 ∧
      s.dev = faithfulSend s.correctPass [0x06#8] [0x06#8] [0x06#8] [0x06#8] ++ [] := by
  obtain ⟨moves, hm⟩ :
      ∃ moves, moves = faithfulSend State.reset.correctPass [0x06#8] [0x06#8] [0x06#8] [0x06#8] := ⟨_, rfl⟩
  refine ⟨{ ready moves with len := 16211 }, rfl, rfl, rfl, rfl, rfl, ?_⟩
  rw [List.append_nil]
  show moves = _
  rw [hm]
  refine (faithfulSend_congr (State.imgByte_congr ?_ ?_) _ _ _ _).symm
  · exact State.correctPass_img_congr rfl rfl
  · rw [State.correctPass_epoch, State.correctPass_epoch]; rfl

theorem witness_EveryStepKeepsInv :
    Inv (echoing .one 2 5 0x41#8 [0x41#8, 0x41#8]) ∧
      (got (step (echoing .one 2 5 0x41#8 [0x41#8, 0x41#8]))).isSome = true :=
  ⟨echoing_inv, by decide⟩

theorem witness_EngineNeverStops :
    Inv (echoing .one 2 5 0x41#8 [0x41#8, 0x41#8]) ∧
      (echoing .one 2 5 0x41#8 [0x41#8, 0x41#8]).inputs = [] := ⟨echoing_inv, rfl⟩

/-- The LK.CLOSE of an abort is the last step of its command. -/
theorem witness_EveryCommandEnds :
    ∃ s : State, Inv s ∧ s.inputs = [] ∧ neverStalls s.dev ∧ stepsLeft s ≤ s.dev.length ∧
      s.busy = true :=
  ⟨{ placed .aborting [supplies []] with dir := .tx, fsm := .aborted, err := .linkUnavailable },
    ⟨by decide, by decide, by decide, by decide, rfl, rfl, .inl rfl⟩, rfl,
    fun m hm => by rw [List.mem_singleton.1 hm]; decide, by decide, rfl⟩

/-- An image of zeros, every byte stored. -/
def zeros : Memory := (List.range 16211).map fun a => (a, 0x00#8)

theorem lookup_zeros (l : List Nat) (a : Nat) (h : a ∈ l) :
    Memory.lookup (l.map fun k => (k, 0x00#8)) a = some 0x00#8 := by
  induction l with
  | nil => cases h
  | cons k l ih =>
    rw [List.map_cons, Memory.lookup]
    split_ifs with hk
    · rfl
    · exact ih ((List.mem_cons.1 h).resolve_left fun e => hk e.symm)

theorem sum_of_zeros (l : List Byte) (h : ∀ b ∈ l, b = 0x00#8) : l.foldl (· + ·) 0 = 0x00#8 := by
  induction l with
  | nil => rfl
  | cons b l ih =>
    rw [List.foldl_cons, h b List.mem_cons_self]
    exact ih fun c hc => h c (List.mem_cons_of_mem _ hc)

/-- V1: the image of zeros is consistent. -/
theorem test_verify_of_zeros (s : State) (h : s.img = zeros) : s.verifyPass = true := by
  have hb : ∀ a, a < 16211 → s.imgByte a = 0x00#8 := by
    intro a ha
    have := lookup_zeros (List.range 16211) a (List.mem_range.2 ha)
    simp [State.imgByte, h, zeros, this]
  have hs : ∀ a b, b < 16211 → s.sum8 a b = 0x00#8 := by
    intro a b hb'
    refine sum_of_zeros _ fun c hc => ?_
    obtain ⟨k, hk, rfl⟩ := List.mem_map.1 hc
    rw [List.mem_range'_1] at hk
    exact hb k (by omega)
  have hr : ∀ r, ckOff r < 16211 := by intro r; cases r <;> decide
  have hm : ∀ r, s.regionMatches r = true := by
    intro r
    rw [State.regionMatches, State.computed, State.stored, hs _ _ (by have := hr r; omega), hb _ (hr r)]
    decide
  simp [State.verifyPass, hm]

theorem witness_SendTransmitsAConsistentImage :
    ∃ s t : State, s.seq = .txFlushIn ∧ sendsConsistent s ∧ step s = .next t := by
  obtain ⟨m, hm⟩ : ∃ m, m = zeros := ⟨_, rfl⟩
  have hv := test_verify_of_zeros { placed .txFlushIn [supplies []] with img := m } hm
  exact ⟨{ placed .txFlushIn [supplies []] with img := m }, _, rfl, hv,
    Served.txFlushIn (a := []) (rest := []) ⟨rfl, rfl, rfl, rfl⟩ rfl⟩

/-- RECV when FSM goes from IDLE to FLUSHED. -/
theorem witness_FsmMovesAlongTheTables :
    Inv { placed .rxFlushOut [supplies []] with dir := .rx } ∧
    ({ placed .rxFlushOut [supplies []] with dir := .rx } : State).inputs.head? ≠ some .reset ∧
    (got (step { placed .rxFlushOut [supplies []] with dir := .rx })).map (fun t => t.fsm) =
      some .flushed :=
  ⟨⟨by decide, by decide, by decide, ⟨rfl, rfl, rfl⟩, rfl, rfl, rfl, rfl⟩, by decide, by decide⟩

theorem witness_HistoriesAreAppendOnly :
    (got (step (placed (.txAck .one) [supplies []]))).map (fun t => t.wire) = some [.byte 0x06#8] ∧
      (placed (.txAck .one) [supplies []]).inputs.head? ≠ some .reset := by decide

/-- A step that may write IMG and one that may not. -/
theorem witness_EngineWritesImgOnlyWhereAllowed :
    (∃ t, exec .cmdRecv (ready []) = .next t) ∧
    (∃ t, engineStep (placed .txCorrect []) = .next t) ∧
    writesImg (placed .txFlushIn []).seq = false ∧ writesImg (placed .txCorrect []).seq = true ∧
    (got (engineStep (receiving .one [supplies [0x41#8]]))).map (fun t => t.img) =
      some [(0, 0x41#8)] :=
  ⟨⟨_, rfl⟩, ⟨_, engineStep_local rfl rfl⟩, rfl, rfl, by decide⟩

/-- A command, an engine step, and a step that takes an outside event. -/
theorem witness_VokIsWrittenOnlyByVerifyAndReset :
    (∃ t, exec .cmdRecv (ready []) = .next t) ∧ (placed .txFlushIn [supplies []]).seq ≠ .verifyPass ∧
    (got (engineStep (placed .txFlushIn [supplies []]))).isSome = true ∧
    (got (step { told (.unit (.cmd8 0x10#8)) with vok := true })).map (fun t => t.vok) = some false ∧
    (got (step { told .reset with vok := true })).map (fun t => t.vok) = some false ∧
    (got (step { told (.csrRead 1) with vok := true })).map (fun t => t.vok) = some true :=
  ⟨⟨_, rfl⟩, by decide, by decide, by decide, by decide, by decide⟩

/-- VERIFY with the right length, up to its end. -/
theorem witness_ChecksumCommandsTouchNoLink :
    ∃ s s₁ t : State, s.busy = false ∧ s.inputs = [] ∧ exec .cmdVerify s = .next s₁ ∧
      s₁.seq = .verifyPass ∧ step s₁ = .next t :=
  ⟨{ State.reset with len := 16211 }, { State.reset with len := 16211, seq := .verifyPass }, _,
    rfl, rfl, rfl, rfl, (step_engine rfl).trans (engineStep_local rfl rfl)⟩

end Sys2Proof.Tests
end

section
/-! What a step of the whole machine can be: one inversion lemma over every outside event. -/

namespace Sys2Proof.Machine

/-- The own rule of the command that a byte selects at CMD (30_encoding.md R62); every other byte raises
IllegalCommand (R63). -/
def commandBody (c : Byte) : State → State :=
  if c = 0x01#8 then openBody
  else if c = 0x02#8 then closeBody
  else if c = 0x10#8 then verifyBody
  else if c = 0x11#8 then correctBody
  else if c = 0x20#8 then recvBody
  else if c = 0x21#8 then sendBody
  else State.raiseError .illegalCommand

/-- A byte at CMD goes through the dispatch, whether it is legal or not (30_encoding.md R77). -/
theorem presentUnit_cmd8 (c : Byte) (s : State) :
    presentUnit (.cmd8 c) s = .next (dispatch (commandBody c) s) := by
  simp only [presentUnit, decodeCmd8, commandBody]
  split_ifs <;> rfl

/-- A property of states that the seven bodies establish holds after whatever byte is taken. -/
theorem commandBody_induction {P : State → Prop} {s : State} (c : Byte)
    (hopen : P (openBody s)) (hclose : P (closeBody s)) (hverify : c = 0x10#8 → P (verifyBody s))
    (hcorrect : P (correctBody s)) (hrecv : P (recvBody s)) (hsend : P (sendBody s))
    (hillegal : P (s.raiseError .illegalCommand)) : P (commandBody c s) := by
  unfold commandBody
  split_ifs with _ _ h
  · exact hopen
  · exact hclose
  · exact hverify h
  · exact hcorrect
  · exact hrecv
  · exact hsend
  · exact hillegal

/-- What a dispatched command does: nothing while BUSY = 1, else its body on the acknowledged state. -/
theorem dispatch_induction {P : State → Prop} {body : State → State} {s : State}
    (hbusy : s.busy = true → P s) (hidle : s.busy = false → P (body s.acknowledge)) :
    P (dispatch body s) := by
  cases hb : s.busy with
  | true => rw [dispatch_busy hb]; exact hbusy hb
  | false => rw [dispatch_idle hb]; exact hidle hb

/-- The decoder gives each port its own instructions (30_encoding.md R60). -/
theorem decode_port {u : CodeUnit} {i : Instr} (h : decode u = .ok i) : i.port = u.port := by
  cases u with
  | cmd8 c =>
    simp only [decode, decodeCmd8] at h
    split_ifs at h <;> cases h <;> rfl
  | lkReq code operand =>
    simp only [decode, decodeLkReq] at h
    split_ifs at h <;> cases operand <;> cases h <;> rfl
  | symbol bytes =>
    simp only [decode, decodeSymbol] at h
    split_ifs at h <;> cases h <;> rfl

/-- A unit that decodes is run when it is presented: a command byte at any time, the others while no command runs
(10_state.md R18, 30_encoding.md R64). -/
theorem presentUnit_decoded {u : CodeUnit} {i : Instr} {s : State} (hd : decode u = .ok i)
    (hp : u.port = .cmd ∨ s.busy = false) : presentUnit u s = exec i s := by
  cases u with
  | cmd8 c =>
    have hc : decodeCmd8 c = .ok i := hd
    simp [presentUnit, hc]
  | lkReq code operand | symbol bytes =>
    have hb : s.busy = false := hp.resolve_left (by simp [CodeUnit.port])
    simp [presentUnit, hb, runUnit, hd]

/-- All that a request or symbol presented from outside can do when it is answered. -/
theorem presentUnit_request {u : CodeUnit} {s t : State} (hu : u.port ≠ .cmd)
    (h : presentUnit u s = .next t) :
    s.busy = false ∧ (t = s ∨ ∃ i, i.port ≠ .cmd ∧ exec i s = .next t) := by
  have hr : s.busy = false ∧ runUnit u s = .next t := by
    cases u with
    | cmd8 c => exact absurd rfl hu
    | lkReq code operand | symbol bytes =>
      cases hb : s.busy with
      | true => simp [presentUnit, hb] at h
      | false => exact ⟨rfl, by simpa [presentUnit, hb] using h⟩
  obtain ⟨hb, hr⟩ := hr
  refine ⟨hb, ?_⟩
  unfold runUnit at hr
  split at hr
  · rename_i i hd
    exact .inr ⟨i, by rw [decode_port hd]; exact hu, hr⟩
  · cases hr; exact .inl rfl
  all_goals cases hr

/-- The event writes the byte c to CMD, as a unit or as an access of CSR 0 (10_state.md R17, R18). -/
def Input.writesCmd (c : Byte) (i : Input) : Prop :=
  i = .unit (.cmd8 c) ∨ ∃ v : BitVec 16, v.setWidth 8 = c ∧ i = .csrWrite 0 v

/-- The next step, if there is one, lets the engine step: nothing is queued, or the host waits or polls. -/
def State.engineTurn (s : State) : Prop :=
  s.inputs = [] ∨ s.inputs.head? = some .turn ∨ s.inputs.head? = some .poll

/-- What a step of the machine can be (00_scope.md R3): an engine step, a byte taken at CMD, a request or symbol
from outside, a host's write of IMG or LEN, an event that touches nothing but RXQ and what the host has read, or
the reset input. -/
inductive StepCase (s : State) : State → Prop where
  | engine {t : State} (q : List Input) (turn : s.engineTurn)
      (h : engineStep { s with inputs := q } = .next t) : StepCase s t
  | command (c : Byte) (i : Input) (rest : List Input) (hi : s.inputs = i :: rest)
      (hc : i.writesCmd c) : StepCase s (dispatch (commandBody c) { s with inputs := rest })
  | request {t : State} (i : Instr) (rest : List Input) (idle : s.busy = false) (hp : i.port ≠ .cmd)
      (h : exec i { s with inputs := rest } = .next t) : StepCase s t
  | writeImg (a : Nat) (v : Byte) (rest : List Input) (idle : s.busy = false) (ha : a < Config.imgLen) :
      StepCase s (({ s with inputs := rest } : State).setImg a v)
  | writeLen (v : BitVec 16) (rest : List Input) (idle : s.busy = false) :
      StepCase s { s with inputs := rest, len := v }
  | quiet (rest : List Input) (x : BitVec 16) (q : List Byte) :
      StepCase s { s with inputs := rest, hrd := x, rxq := q }
  | reset (rest : List Input) (hi : s.inputs = .reset :: rest) :
      StepCase s ({ s with inputs := rest } : State).doReset

/-- An access of IMG that is answered was made while BUSY = 0 and inside the image (20_memory.md R46). -/
theorem hostImg_next {a : Nat} {act : State → State} {s t : State} (h : hostImg a act s = .next t) :
    s.busy = false ∧ a < Config.imgLen ∧ t = act s := by
  unfold hostImg at h
  split_ifs at h with hb ha
  cases h
  exact ⟨by simpa using hb, ha, rfl⟩

/-- A read of a CSR that is answered changes nothing but what the host has read (10_state.md R17). -/
theorem csrRead_next {n : Nat} {s t : State} (h : csrRead n s = .next t) :
    ∃ x, t = { s with hrd := x } := by
  unfold csrRead at h
  split at h
  · cases h
  · split_ifs at h
    cases h
    exact ⟨_, rfl⟩

theorem step_cases {s t : State} (h : step s = .next t) : StepCase s t := by
  cases hi : s.inputs with
  | nil => exact .engine s.inputs (.inl hi) (by rw [← step_engine hi]; exact h)
  | cons i rest =>
    have ht : takeInput i { s with inputs := rest } = .next t := by
      rw [← machineStep_input hi]; exact h
    cases i with
    | unit u =>
      by_cases hu : u.port = .cmd
      · cases u with
        | cmd8 c =>
          rw [takeInput, presentUnit_cmd8] at ht
          cases ht
          exact .command c _ rest hi (.inl rfl)
        | lkReq code operand | symbol bytes => cases hu
      · obtain ⟨hb, rfl | ⟨i, hp, he⟩⟩ := presentUnit_request hu ht
        · exact .quiet rest s.hrd s.rxq
        · exact .request i rest hb hp he
    | csrWrite n v =>
      simp only [takeInput, csrWrite] at ht
      split_ifs at ht with h0 h4 hb h6
      · subst h0
        rw [presentUnit_cmd8] at ht
        cases ht
        exact .command _ _ rest hi (.inr ⟨v, rfl, rfl⟩)
      · cases ht; exact .writeLen v rest (Bool.eq_false_of_not_eq_true hb)
      · cases ht; exact .quiet rest s.hrd s.rxq
    | csrRead n =>
      obtain ⟨x, rfl⟩ := csrRead_next ht
      exact .quiet rest x s.rxq
    | imgWrite a v =>
      obtain ⟨hb, ha, rfl⟩ := hostImg_next ht
      exact .writeImg a v rest hb ha
    | imgRead a =>
      simp only [takeInput, imgRead] at ht
      obtain ⟨-, -, rfl⟩ := hostImg_next ht
      exact .quiet rest _ s.rxq
    | arrive bs =>
      simp only [takeInput, arriveBetween] at ht
      split_ifs at ht <;> cases ht
      · exact .quiet rest s.hrd _
      · exact .quiet rest s.hrd s.rxq
    | turn => exact .engine rest (.inr (.inl (by rw [hi]; rfl))) ht
    | poll =>
      simp only [takeInput, pollStatus] at ht
      split_ifs at ht
      · exact .engine (.poll :: rest) (.inr (.inr (by rw [hi]; rfl))) ht
      · cases ht; exact .quiet rest _ s.rxq
    | reset => cases ht; exact .reset rest hi

end Sys2Proof.Machine
end

section
/-! What no step takes back: WIRE and LOG only grow and the parameters stay (10_state.md R27, R28), and who
writes VOK (R19). -/

namespace Sys2Proof.Machine

/-- The histories of `t` go on from those of `s`, under the same parameters. -/
structure Extends (s t : State) : Prop where
  cfg : t.cfg = s.cfg
  wire : s.wire <+: t.wire
  log : s.log <+: t.log

/-- Nothing was put on WIRE or into LOG. -/
theorem Extends.of_eq {s t : State} (hc : t.cfg = s.cfg) (hw : t.wire = s.wire) (hl : t.log = s.log) :
    Extends s t :=
  ⟨hc, hw ▸ List.prefix_refl _, hl ▸ List.prefix_refl _⟩

/-- Events were appended to LOG and nothing to WIRE. -/
theorem Extends.of_log {s t : State} {es : List LogEvent} (hc : t.cfg = s.cfg) (hw : t.wire = s.wire)
    (hl : t.log = s.log ++ es) : Extends s t :=
  ⟨hc, hw ▸ List.prefix_refl _, hl ▸ List.prefix_append _ _⟩

theorem Extends.refl (s : State) : Extends s s := .of_eq rfl rfl rfl

theorem Extends.trans {s t u : State} (h : Extends s t) (g : Extends t u) : Extends s u :=
  ⟨g.cfg.trans h.cfg, h.wire.trans g.wire, h.log.trans g.log⟩

theorem State.goTo_extends (p : SeqPos) (s : State) : Extends s (s.goTo p) := .of_eq rfl rfl rfl

theorem State.finish_extends (s : State) : Extends s s.finish := .of_eq rfl rfl rfl

theorem State.raiseError_extends (e : ErrCode) (s : State) : Extends s (s.raiseError e) :=
  .of_eq (by simp) (by simp) (by simp)

theorem State.addLog_extends (e : LogEvent) (s : State) : Extends s (s.addLog e) := .of_log rfl rfl rfl

theorem State.noteUnderrun_extends (b : Block) (got : Nat) (s : State) :
    Extends s (s.noteUnderrun b got) := by
  unfold State.noteUnderrun
  split_ifs
  · exact .of_log rfl rfl rfl
  · exact .refl s

/-- A step that began with writes of other fields. -/
theorem Extends.after {s u t : State} (h : Extends u t) (hc : u.cfg = s.cfg) (hw : u.wire = s.wire)
    (hl : u.log = s.log) : Extends s t := (Extends.of_eq hc hw hl).trans h

/-! ### The lines after a primitive -/

theorem storeSegment_extends (b : Block) (r : List Byte) (s : State) : Extends s (storeSegment b r s) := by
  unfold storeSegment
  exact (State.noteUnderrun_extends b r.length _).after rfl rfl rfl

@[simp] theorem storeSegment_vok (b : Block) (r : List Byte) (s : State) :
    (storeSegment b r s).vok = s.vok := by simp [storeSegment]

theorem checkLength_extends (s : State) : Extends s (checkLength s) := by
  unfold checkLength
  dsimp only
  split_ifs
  · exact .of_eq rfl rfl rfl
  · exact (State.raiseError_extends _ _).after rfl rfl rfl

@[simp] theorem checkLength_vok (s : State) : (checkLength s).vok = s.vok := by
  unfold checkLength
  dsimp only
  split_ifs <;> simp

theorem afterSegment_extends (b : Block) (s : State) : Extends s (afterSegment b s) := by
  cases b with
  | one | two => exact State.goTo_extends _ _
  | three => exact checkLength_extends s

@[simp] theorem afterSegment_vok (b : Block) (s : State) : (afterSegment b s).vok = s.vok := by
  cases b with
  | one | two => rfl
  | three => exact checkLength_vok s

theorem blockDone_extends (b : Block) (s : State) : Extends s (blockDone b s) := by
  cases b <;> exact State.goTo_extends _ _

@[simp] theorem blockDone_vok (b : Block) (s : State) : (blockDone b s).vok = s.vok := by
  cases b <;> rfl

theorem continueBlock_extends (b : Block) (s : State) : Extends s (continueBlock b s) := by
  unfold continueBlock
  split_ifs
  · exact State.goTo_extends _ _
  · exact blockDone_extends b s

@[simp] theorem continueBlock_vok (b : Block) (s : State) : (continueBlock b s).vok = s.vok := by
  unfold continueBlock
  split_ifs <;> simp

/-- All that the decision on an echo can do (43_send.md R149 to R152). -/
theorem echoTaken_cases (b : Block) (e : List Byte) (s : State) :
    echoTaken b e s = continueBlock b { s with echo := e } ∨
    (isFinal b = true ∧ echoTaken b e s =
      (({ s with echo := e } : State).noteFatal b e).raiseError .echoMismatchFatal) ∨
    (isFinal b = false ∧
      (echoTaken b e s = blockDone b (({ s with echo := e } : State).noteQuirk b) ∨
        echoTaken b e s = continueBlock b (({ s with echo := e } : State).noteMismatch b e))) := by
  unfold echoTaken
  dsimp only
  split_ifs with hm hf hq
  · exact .inl rfl
  · exact .inr (.inl ⟨hf, rfl⟩)
  · exact .inr (.inr ⟨Bool.eq_false_of_not_eq_true hf, .inl rfl⟩)
  · exact .inr (.inr ⟨Bool.eq_false_of_not_eq_true hf, .inr rfl⟩)

theorem echoTaken_extends (b : Block) (e : List Byte) (s : State) : Extends s (echoTaken b e s) := by
  have he : Extends s { s with echo := e } := .of_eq rfl rfl rfl
  rcases echoTaken_cases b e s with h | ⟨-, h⟩ | ⟨-, h | h⟩ <;> rw [h]
  · exact he.trans (continueBlock_extends b _)
  · exact (he.trans (.of_log (by simp) (by simp) (by simp; rfl))).trans (State.raiseError_extends _ _)
  · exact (he.trans (.of_log (by simp) (by simp) (by simp; rfl))).trans (blockDone_extends b _)
  · exact (he.trans (.of_log (by simp) (by simp) (by simp; rfl))).trans (continueBlock_extends b _)

@[simp] theorem echoTaken_vok (b : Block) (e : List Byte) (s : State) :
    (echoTaken b e s).vok = s.vok := by
  rcases echoTaken_cases b e s with h | ⟨-, h⟩ | ⟨-, h | h⟩ <;> simp [h]

theorem State.proceed_extends (s : State) : Extends s s.proceed := by
  cases hs : s.seq <;> simp only [State.proceed, hs]
  case rxRead b => exact (storeSegment_extends b _ s).trans (afterSegment_extends b _)
  case txEcho b n => exact echoTaken_extends b _ s
  case txWrite b i => split_ifs <;> exact State.goTo_extends _ _
  case rxEcho | txAckRead | txAckEchoRead => exact (State.addLog_extends _ s).trans (State.goTo_extends _ _)
  all_goals exact .of_eq rfl rfl rfl

@[simp] theorem State.proceed_vok (s : State) : s.proceed.vok = s.vok := by
  cases hs : s.seq <;> simp only [State.proceed, hs]
  case rxRead b => simp
  case txEcho b n => simp
  case txWrite b i => split_ifs <;> rfl
  all_goals rfl

/-- All that the lines after a primitive can do, by its answer (40_link.md R91, U6). -/
theorem State.resume_cases (s : State) :
    (s.lkres = .failed ∧ s.resume = s.raiseError .linkUnavailable) ∨
    (s.lkres = .stalled ∧ s.resume = s) ∨
    (s.lkres ≠ .failed ∧ s.lkres ≠ .stalled ∧ s.resume = s.proceed) := by
  by_cases hf : s.lkres = .failed
  · exact .inl ⟨hf, State.resume_failed hf⟩
  · by_cases hs : s.lkres = .stalled
    · exact .inr (.inl ⟨hs, State.resume_stalled hs⟩)
    · exact .inr (.inr ⟨hf, hs, State.resume_returned hf hs⟩)

theorem State.resume_extends (s : State) : Extends s s.resume := by
  rcases s.resume_cases with ⟨-, e⟩ | ⟨-, e⟩ | ⟨-, -, e⟩ <;> rw [e]
  · exact State.raiseError_extends _ s
  · exact .refl s
  · exact State.proceed_extends s

@[simp] theorem State.resume_vok (s : State) : s.resume.vok = s.vok := by
  rcases s.resume_cases with ⟨-, e⟩ | ⟨-, e⟩ | ⟨-, -, e⟩ <;> rw [e] <;> simp

/-! ### Primitives and engine steps -/

theorem State.deviceTurn_extends (s : State) : Extends s s.deviceTurn :=
  .of_eq (by simp) (by simp) (by simp)

theorem State.linkStep_extends {mayStall : Bool} {effect : State → State} (s : State)
    (h : ∀ u, Extends u (effect u)) : Extends s (s.linkStep mayStall effect) := by
  rcases s.linkStep_cases mayStall effect with ⟨-, e⟩ | ⟨-, e⟩ | ⟨-, e⟩ <;> rw [e]
  · exact s.deviceTurn_extends.trans (h _)
  · exact s.deviceTurn_extends.trans (.of_eq rfl rfl rfl)
  · exact s.deviceTurn_extends.trans (.of_eq rfl rfl rfl)

theorem State.putBytes_extends (bs : List Byte) (s : State) : Extends s (s.putBytes bs) :=
  ⟨rfl, List.prefix_append _ _, List.prefix_refl _⟩

theorem State.putBreak_extends (d : Duration) (s : State) : Extends s (s.putBreak d) :=
  ⟨rfl, List.prefix_append _ _, List.prefix_refl _⟩

/-- Of the instructions of the link and the wire, a write, a break and ACK append to WIRE and no other touches
the histories. -/
theorem exec_link_extends {i : Instr} {s t : State} (hp : i.port ≠ .cmd) (hq : i ≠ .quirk)
    (h : exec i s = .next t) : Extends s t := by
  cases i with
  | cmdOpen | cmdClose | cmdVerify | cmdCorrect | cmdRecv | cmdSend => exact absurd rfl hp
  | quirk => exact absurd rfl hq
  | lkOpen => cases h; exact .of_eq (by simp) (by simp) (by simp)
  | lkClose => cases h; exact .of_eq (by simp) (by simp) (by simp)
  | lkWrite bs | ack => rw [(whenOpen_next h).2]; exact s.linkStep_extends (State.putBytes_extends _)
  | lkBreak d => rw [(whenOpen_next h).2]; exact s.linkStep_extends (State.putBreak_extends d)
  | lkRead n | lkWaiting | lkFlushin | lkFlushout =>
    rw [(whenOpen_next h).2]
    exact s.linkStep_extends fun u => .of_eq rfl rfl rfl

/-- What VERIFY's pass can do: it writes ACC and VOK, then the command ends or raises ChecksumInvalid
(41_checksum.md R105). -/
theorem verifyStep_cases (s : State) : ∃ acc,
    verifyStep s = ({ s with acc := acc, vok := true } : State).finish ∨
    verifyStep s = ({ s with acc := acc, vok := false } : State).raiseError .checksumInvalid := by
  refine ⟨s.computed .three, ?_⟩
  unfold verifyStep
  generalize s.computed .three = acc
  cases s.verifyPass with
  | true => exact .inl rfl
  | false => exact .inr rfl

theorem verifyStep_extends (s : State) : Extends s (verifyStep s) := by
  obtain ⟨acc, e | e⟩ := verifyStep_cases s <;> rw [e]
  · exact .of_eq rfl rfl rfl
  · exact (State.raiseError_extends _ _).after rfl rfl rfl

theorem State.correctPass_extends (s : State) : Extends s s.correctPass :=
  .of_eq (by simp) (by simp) (by simp)

theorem State.delay_extends (s : State) : Extends s s.delay := .of_eq (by simp) (by simp) (by simp)

/-- A checksum pass or a Delay touches no history. -/
theorem localStep_extends (s : State) : Extends s (localStep s) := by
  cases hs : s.seq <;> simp only [localStep, hs]
  case verifyPass => exact verifyStep_extends s
  case correctPass => exact s.correctPass_extends.trans (State.finish_extends _)
  case rxCorrect | txCorrect => exact s.correctPass_extends.trans (State.goTo_extends _ _)
  case rxSettle | txSettle => exact s.delay_extends.trans (State.goTo_extends _ _)
  all_goals exact .refl s

/-- Of the passes and Delays only VERIFY's pass writes VOK (10_state.md R19). -/
theorem localStep_vok {s : State} (h : s.seq ≠ .verifyPass) : (localStep s).vok = s.vok := by
  cases hs : s.seq <;> simp only [localStep, hs]
  case verifyPass => exact absurd hs h
  case correctPass => exact (State.finish_vok _).trans s.correctPass_vok
  case rxCorrect | txCorrect => exact (State.goTo_vok _ _).trans s.correctPass_vok
  case rxSettle | txSettle => exact (State.goTo_vok _ _).trans s.delay_vok

theorem State.enter_extends (s : State) : Extends s s.enter := .of_eq (by simp) (by simp) (by simp)

theorem engineStep_extends {s t : State} (h : engineStep s = .next t) : Extends s t := by
  rcases engineStep_next h with ⟨-, -, rfl⟩ | ⟨-, u, i, v, -, -, hp, hq, hv, -, rfl⟩
  · exact localStep_extends s
  · exact (s.enter_extends.trans (exec_link_extends hp hq hv)).trans v.resume_extends

theorem engineStep_vok {s t : State} (hs : s.seq ≠ .verifyPass) (h : engineStep s = .next t) :
    t.vok = s.vok := by
  rcases engineStep_next h with ⟨-, -, rfl⟩ | ⟨-, u, i, v, -, -, -, -, -, same, rfl⟩
  · exact localStep_vok hs
  · rw [State.resume_vok, same.vok, State.enter_vok]

/-! ### Commands and requests from outside -/

/-- The quirk pattern does nothing unless an echo read is outstanding, so nothing in an idle engine. -/
theorem exec_quirk_idle {s : State} (h : s.busy = false) : exec .quirk s = .next s := by
  simp [exec, execQuirk, busy_eq_false.1 h]

/-- In an idle engine every instruction of the link and the wire touches only the link. -/
theorem exec_request_same {i : Instr} {s t : State} (hb : s.busy = false) (hp : i.port ≠ .cmd)
    (h : exec i s = .next t) : SameRegisters s t := by
  by_cases hq : i = .quirk
  · subst hq
    rw [exec_quirk_idle hb] at h
    cases h
    exact .refl s
  · exact exec_link_same hp hq h

theorem exec_request_extends {i : Instr} {s t : State} (hb : s.busy = false) (hp : i.port ≠ .cmd)
    (h : exec i s = .next t) : Extends s t := by
  by_cases hq : i = .quirk
  · subst hq
    rw [exec_quirk_idle hb] at h
    cases h
    exact .refl s
  · exact exec_link_extends hp hq h

theorem openBody_extends (s : State) : Extends s (openBody s) := by
  unfold openBody
  split_ifs
  · exact State.raiseError_extends _ s
  · exact State.goTo_extends _ s

theorem verifyBody_extends (s : State) : Extends s (verifyBody s) := by
  unfold verifyBody
  split_ifs
  · exact State.goTo_extends _ s
  · exact (State.raiseError_extends _ _).after rfl rfl rfl

theorem correctBody_extends (s : State) : Extends s (correctBody s) := by
  unfold correctBody
  split_ifs
  · exact State.goTo_extends _ s
  · exact State.raiseError_extends _ s

theorem recvBody_extends (s : State) : Extends s (recvBody s) := by
  unfold recvBody
  dsimp only
  split_ifs
  · exact .of_eq rfl rfl rfl
  · exact (State.raiseError_extends _ _).after rfl rfl rfl

theorem sendBody_extends (s : State) : Extends s (sendBody s) := by
  unfold sendBody
  dsimp only
  split_ifs
  · exact .of_eq rfl rfl rfl
  · exact (State.raiseError_extends _ _).after rfl rfl rfl
  · exact (State.raiseError_extends _ _).after rfl rfl rfl

/-- Taking a byte at CMD touches no history. -/
theorem dispatch_commandBody_extends (c : Byte) (s : State) :
    Extends s (dispatch (commandBody c) s) :=
  dispatch_induction (fun _ => .refl s) fun _ =>
    Extends.after (commandBody_induction (P := Extends s.acknowledge) c (openBody_extends _)
      (State.goTo_extends _ _) (fun _ => verifyBody_extends _) (correctBody_extends _)
      (recvBody_extends _) (sendBody_extends _) (State.raiseError_extends _ _)) rfl rfl rfl

@[simp] theorem openBody_vok (s : State) : (openBody s).vok = s.vok := by
  unfold openBody; split_ifs <;> simp

@[simp] theorem closeBody_vok (s : State) : (closeBody s).vok = s.vok := rfl

@[simp] theorem correctBody_vok (s : State) : (correctBody s).vok = s.vok := by
  unfold correctBody; split_ifs <;> simp

@[simp] theorem recvBody_vok (s : State) : (recvBody s).vok = s.vok := by
  unfold recvBody; dsimp only; split_ifs <;> simp

@[simp] theorem sendBody_vok (s : State) : (sendBody s).vok = s.vok := by
  unfold sendBody; dsimp only; split_ifs <;> simp

/-- A command whose body leaves VOK leaves it through the dispatch. -/
theorem dispatch_vok {body : State → State} {s : State}
    (h : (body s.acknowledge).vok = s.acknowledge.vok) : (dispatch body s).vok = s.vok :=
  dispatch_induction (P := fun t => t.vok = s.vok) (fun _ => rfl) fun _ => h

/-- No byte but VERIFY's makes the decoder write VOK. -/
theorem dispatch_commandBody_vok {c : Byte} {s : State} (hc : c ≠ 0x10#8) :
    (dispatch (commandBody c) s).vok = s.vok :=
  dispatch_vok <| commandBody_induction (P := fun t => t.vok = s.acknowledge.vok) c (by simp) (by simp)
    (fun h => absurd h hc) (by simp) (by simp) (by simp) (by simp)

/-- No instruction but VERIFY writes VOK (10_state.md R19, R25). -/
theorem exec_vok {i : Instr} {s t : State} (hi : i ≠ .cmdVerify) (h : exec i s = .next t) :
    t.vok = s.vok := by
  cases i with
  | cmdVerify => exact absurd rfl hi
  | cmdOpen => cases h; exact dispatch_vok (openBody_vok _)
  | cmdClose => cases h; exact dispatch_vok (closeBody_vok _)
  | cmdCorrect => cases h; exact dispatch_vok (correctBody_vok _)
  | cmdRecv => cases h; exact dispatch_vok (recvBody_vok _)
  | cmdSend => cases h; exact dispatch_vok (sendBody_vok _)
  | quirk =>
    simp only [exec, execQuirk] at h
    split at h <;> cases h
    · split_ifs
      · exact echoTaken_vok _ _ s
      · rfl
    all_goals rfl
  | lkOpen | lkClose | lkRead | lkWrite | lkBreak | lkWaiting | lkFlushin | lkFlushout | ack =>
    exact (exec_link_same (by simp [Instr.port]) (by simp) h).vok

end Sys2Proof.Machine
end

section
/-! O57 and O59: the histories and VOK along every step. -/

namespace Sys2Proof.Safety

open Sys2Proof.Machine

/-- No step takes anything back from a history but a reset, and that keeps the parameters (10_state.md R27, R28). -/
theorem step_extends {s t : State} (h : step s = .next t) :
    Extends s t ∨ (s.inputs.head? = some .reset ∧ t.cfg = s.cfg) := by
  cases step_cases h with
  | engine q _ he => exact .inl ((engineStep_extends he).after rfl rfl rfl)
  | command c i rest hi hc => exact .inl ((dispatch_commandBody_extends c _).after rfl rfl rfl)
  | request i rest hb hp he =>
    exact .inl ((exec_request_extends (s := { s with inputs := rest }) hb hp he).after rfl rfl rfl)
  | writeImg | writeLen | quiet => exact .inl (.of_eq rfl rfl rfl)
  | reset rest hi => exact .inr ⟨by rw [hi]; rfl, rfl⟩

/-- Settles O57: every case of a step but the reset input extends the histories. -/
theorem historiesAreAppendOnly : Obligations.HistoriesAreAppendOnly := by
  intro s t h
  rcases step_extends h with he | ⟨hr, hc⟩
  · exact ⟨he.cfg, fun _ => ⟨he.wire, he.log⟩⟩
  · exact ⟨hc, fun hn => absurd hr hn⟩

/-- Settles O59: exec and the engine by their frames, a step of the whole machine by its cases. -/
theorem vokIsWrittenOnlyByVerifyAndReset : Obligations.VokIsWrittenOnlyByVerifyAndReset := by
  refine ⟨fun i s t => exec_vok, fun s t => engineStep_vok, fun s t h => ?_⟩
  cases step_cases h with
  | engine q turn he =>
    by_cases hs : s.seq = .verifyPass
    · exact .inr (.inr (.inl ⟨hs, turn⟩))
    · exact .inl (engineStep_vok (s := { s with inputs := q }) hs he)
  | command c i rest hi hc =>
    by_cases hb : s.busy = true
    · exact .inl (by rw [dispatch_busy (s := { s with inputs := rest }) hb])
    by_cases hv : c = 0x10#8
    · subst hv
      refine .inr (.inr (.inr ⟨Bool.eq_false_of_not_eq_true hb, ?_⟩))
      rcases hc with rfl | ⟨v, hv, rfl⟩
      · exact .inl (by rw [hi]; rfl)
      · exact .inr ⟨v, hv, by rw [hi]; rfl⟩
    · exact .inl (dispatch_commandBody_vok hv)
  | request i rest hb hp he =>
    exact .inl (exec_request_same (s := { s with inputs := rest }) hb hp he).vok
  | writeImg | writeLen | quiet => exact .inl rfl
  | reset rest hi => exact .inr (.inl (by rw [hi]; rfl))

end Sys2Proof.Safety
end

section
/-! Steps of the engine and the taking of events: O5, O6, O7, O8, O29. -/

namespace Sys2Proof.Machine

/-- A step that takes an event from the queue (00_scope.md R3). -/
theorem step_input {s : State} {i : Input} {rest : List Input} (h : s.inputs = i :: rest) :
    step s = takeInput i { s with inputs := rest } :=
  machineStep_input h

/-- At the idle place the engine has nothing to run (70_reset_and_hazards.md R201). -/
theorem engineStep_idle {s : State} (h : s.busy = false) : engineStep s = .next s := by
  have hs : s.seq = .idle := busy_eq_false.1 h
  have he : s.enter = s := by simp [State.enter, hs]
  have ho : s.offsetsInside = true := by simp [State.offsetsInside, hs]
  have hr : s.enter.request = none := by simp [he, State.request, hs]
  rw [engineStep_local ho hr]
  simp [localStep, hs]

/-- Whatever command the byte would be, the dispatch drops it while BUSY = 1 (10_state.md R18). -/
theorem exec_command_busy {i : Instr} {s : State} (hb : s.busy = true) (hp : i.port = .cmd) :
    exec i s = .next s := by
  cases i with
  | cmdOpen | cmdClose | cmdVerify | cmdCorrect | cmdRecv | cmdSend =>
    exact congrArg Host.Outcome.next (dispatch_busy hb)
  | lkOpen | lkClose | lkRead | lkWrite | lkBreak | lkWaiting | lkFlushin | lkFlushout => cases hp
  | ack | quirk => cases hp

/-- The unit that the fetch finds decodes to the instruction it is found with. -/
theorem firstDecoded_decodes {us : List CodeUnit} {u : CodeUnit} {i : Instr}
    (h : firstDecoded us = some (u, i)) : decode u = .ok i := by
  induction us with
  | nil => cases h
  | cons v us ih =>
    unfold firstDecoded at h
    split at h
    · rename_i j hj
      cases h
      exact hj
    · exact ih h

/-- A table word stands for a unit that decodes to the word's instruction (log 11). -/
theorem unitOfWord_decodes {nbits w : Nat} {i : Instr} (h : decodeTableWord nbits w = some i) :
    decode (unitOfWord nbits w) = .ok i := by
  obtain ⟨⟨u, j⟩, hf, rfl⟩ : ∃ p, firstDecoded (unitsOfTable nbits w) = some p ∧ p.2 = i := by
    simpa [decodeTableWord] using h
  simpa [unitOfWord, hf] using firstDecoded_decodes hf

theorem State.present_inputs (u : CodeUnit) (s : State) : (s.present u).inputs = .unit u :: s.inputs := by
  cases u <;> rfl

/-- A unit is presented where it can be taken: a command byte at any time, the others with no command running
(log 10). -/
theorem State.present_ready (u : CodeUnit) (s : State) : u.port = .cmd ∨ (s.present u).busy = false := by
  cases u with
  | cmd8 c => exact .inl rfl
  | lkReq code operand | symbol bytes => exact .inr rfl

end Sys2Proof.Machine

namespace Sys2Proof.Safety

open Sys2Proof.Machine

/-- Settles O5: with nothing queued the step is the engine's, which runs the decoded unit. -/
theorem engineStepRunsTheInstructionOfItsPlace : Obligations.EngineStepRunsTheInstructionOfItsPlace := by
  intro s u i hi ho hr hd
  rw [step_engine hi, engineStep_runs ho hr hd]

/-- Settles O6: the word's unit is at the head of the queue, and where it is presented it is run. -/
theorem fetchedWordIsRunNext : Obligations.FetchedWordIsRunNext := by
  intro s nbits w i h
  have hready := s.present_ready (unitOfWord nbits w)
  unfold State.withFetchWord
  rw [step_input (s.present_inputs (unitOfWord nbits w))]
  exact presentUnit_decoded (unitOfWord_decodes h) hready

/-- Settles O7: the idle place presents no unit and has no pass or Delay. -/
theorem idleEngineDoesNothing : Obligations.IdleEngineDoesNothing := by
  intro s hi hb
  rw [step_engine hi, engineStep_idle hb]

/-- Settles O8: the three ways in which a command byte can come all end in the dispatch. -/
theorem busyDropsEveryCommandByte : Obligations.BusyDropsEveryCommandByte := by
  intro s hb
  have drops (c : Byte) (rest : List Input) :
      presentUnit (.cmd8 c) { s with inputs := rest } = .next { s with inputs := rest } := by
    rw [presentUnit_cmd8, dispatch_busy (s := { s with inputs := rest }) hb]
  refine ⟨fun i => exec_command_busy hb, fun c rest hi => ?_, fun v rest hi => ?_⟩
  · rw [step_input hi]
    exact drops c rest
  · rw [step_input hi]
    exact drops (v.setWidth 8) rest

/-- Settles O29: each of the seven goes through the test of LINKOPEN. -/
theorem closedLinkRefusesPrimitives : Obligations.ClosedLinkRefusesPrimitives := by
  intro s n bs d h i hi
  simp only [List.mem_cons, List.not_mem_nil, or_false] at hi
  rcases hi with rfl | rfl | rfl | rfl | rfl | rfl | rfl <;> exact whenOpen_closed h

end Sys2Proof.Safety
end

section
/-! The CSRs as the host sees them: O35, O36. -/

namespace Sys2Proof.Machine

theorem step_csrWrite {s : State} {n : Nat} {v : BitVec 16} {rest : List Input}
    (h : s.inputs = .csrWrite n v :: rest) : step s = csrWrite n v { s with inputs := rest } :=
  step_input h

theorem step_csrRead {s : State} {n : Nat} {rest : List Input}
    (h : s.inputs = .csrRead n :: rest) : step s = csrRead n { s with inputs := rest } :=
  step_input h

/-- The bits of STATUS (10_state.md R19); bits 6 and up read as 0. -/
theorem State.statusReg_getLsbD (s : State) (k : Nat) : s.statusReg.getLsbD k =
    (if k = 0 then s.busy else if k = 1 then s.linkOpen else if k = 2 then s.vok
     else if k = 3 then s.recov1 else if k = 4 then s.recov2 else if k = 5 then s.underrun
     else false) := by
  change BitVec.getLsbD (w := 2 + 1 + 1 + 1 + 1 + 1 + 1) s.statusReg k = _
  unfold State.statusReg
  simp only [BitVec.getLsbD_append, BitVec.getLsbD_ofBool]
  match k with
  | 0 | 1 | 2 | 3 | 4 | 5 | k + 6 => simp

/-- ERR reads as the code of the error (10_state.md R20, 60_exceptions.md R171). -/
theorem State.errReg_toNat (s : State) : s.errReg.toNat = s.err.code.toNat := by
  unfold State.errReg
  cases s.err <;> rfl

/-- FSMR holds FSM in bits 2 to 0 and DIR in bits 4 and 3 (10_state.md R21). -/
theorem State.fsmReg_toNat (s : State) : s.fsmReg.toNat = s.fsm.code.toNat + 8 * s.dir.code.toNat := by
  unfold State.fsmReg
  cases s.fsm <;> cases s.dir <;> rfl

end Sys2Proof.Machine

namespace Sys2Proof.Safety

open Sys2Proof.Machine

/-- Settles O36: STATUS bit by bit, ERR and FSMR by their codes. -/
theorem statusRegistersReadTheirFields : Obligations.StatusRegistersReadTheirFields := by
  intro s
  refine ⟨s.statusReg_getLsbD, ?_, ?_⟩
  · rw [s.errReg_toNat]
    cases s.err <;> rfl
  · rw [s.fsmReg_toNat]
    cases s.fsm <;> cases s.dir <;> rfl

/-- Settles O35, by the number of the CSR. -/
theorem hostWritesCsrs : Obligations.HostWritesCsrs := by
  intro s n v rest hi
  have hbusy : ({ s with inputs := rest } : State).busy = s.busy := rfl
  rw [step_csrWrite hi]
  refine ⟨?_, ?_, ?_, ?_, ?_⟩
  · rintro rfl; rfl
  · rintro rfl hb; simp [csrWrite, hbusy, hb]
  · rintro rfl hb; simp [csrWrite, hbusy, hb]
  · intro hn
    simp only [List.mem_cons, List.not_mem_nil, or_false] at hn
    simp only [csrWrite]
    rw [if_neg (by omega), if_neg (by omega), if_pos (by omega)]
  · intro hn
    simp only [csrWrite]
    rw [if_neg (by omega), if_neg (by omega), if_neg (by omega)]

end Sys2Proof.Safety
end

section
/-! The engine does not look at the queue of outside events: an engine step on another queue is the same
step, with that queue put in its place. -/

namespace Sys2Proof.Machine

/-- `s` with another queue of outside events. -/
def State.withInputs (q : List Input) (s : State) : State := { s with inputs := q }

@[simp] theorem State.withInputs_seq (q : List Input) (s : State) : (s.withInputs q).seq = s.seq := rfl
@[simp] theorem State.withInputs_dev (q : List Input) (s : State) : (s.withInputs q).dev = s.dev := rfl
@[simp] theorem State.withInputs_lkres (q : List Input) (s : State) : (s.withInputs q).lkres = s.lkres := rfl
@[simp] theorem State.withInputs_linkOpen (q : List Input) (s : State) :
    (s.withInputs q).linkOpen = s.linkOpen := rfl
@[simp] theorem State.withInputs_nextMove (q : List Input) (s : State) :
    (s.withInputs q).nextMove = s.nextMove := rfl
@[simp] theorem State.withInputs_moveAnswer (q : List Input) (m : Bool) (s : State) :
    (s.withInputs q).moveAnswer m = s.moveAnswer m := rfl
@[simp] theorem State.withInputs_request (q : List Input) (s : State) :
    (s.withInputs q).request = s.request := rfl

@[simp] theorem State.withInputs_computed (q : List Input) (r : Region) (s : State) :
    (s.withInputs q).computed r = s.computed r := State.computed_congr fun _ _ _ => rfl

@[simp] theorem State.withInputs_verifyPass (q : List Input) (s : State) :
    (s.withInputs q).verifyPass = s.verifyPass := State.verifyPass_congr rfl

/-! ### The lines around a primitive -/

@[simp] theorem State.goTo_withInputs (p : SeqPos) (q : List Input) (s : State) :
    (s.withInputs q).goTo p = (s.goTo p).withInputs q := rfl

@[simp] theorem State.finish_withInputs (q : List Input) (s : State) :
    (s.withInputs q).finish = s.finish.withInputs q := rfl

@[simp] theorem State.raiseError_withInputs (e : ErrCode) (q : List Input) (s : State) :
    (s.withInputs q).raiseError e = (s.raiseError e).withInputs q := by
  cases h : s.seq.inTransfer with
  | true => rw [State.raiseError_inTransfer e h, State.raiseError_inTransfer (s := s.withInputs q) e h]; rfl
  | false => rw [State.raiseError_rejects e h, State.raiseError_rejects (s := s.withInputs q) e h]; rfl

theorem State.noteUnderrun_withInputs (b : Block) (got : Nat) (q : List Input) (s : State) :
    (s.withInputs q).noteUnderrun b got = (s.noteUnderrun b got).withInputs q := by
  unfold State.noteUnderrun
  split_ifs <;> rfl

theorem State.noteQuirk_withInputs (b : Block) (q : List Input) (s : State) :
    (s.withInputs q).noteQuirk b = (s.noteQuirk b).withInputs q := by
  cases b <;> rfl

@[simp] theorem storeSegment_withInputs (b : Block) (r : List Byte) (q : List Input) (s : State) :
    storeSegment b r (s.withInputs q) = (storeSegment b r s).withInputs q := by
  unfold storeSegment
  exact State.noteUnderrun_withInputs b r.length q { s with
    img := Memory.writeBytes s.img s.rxcnt.toNat r, rxcnt := s.rxcnt + BitVec.ofNat 16 r.length }

@[simp] theorem checkLength_withInputs (q : List Input) (s : State) :
    checkLength (s.withInputs q) = (checkLength s).withInputs q := by
  show checkLength { s with inputs := q } = _
  unfold checkLength
  dsimp only
  split_ifs
  · rfl
  · exact State.raiseError_withInputs _ q { s with len := s.rxcnt }

@[simp] theorem afterSegment_withInputs (b : Block) (q : List Input) (s : State) :
    afterSegment b (s.withInputs q) = (afterSegment b s).withInputs q := by
  cases b with
  | one | two => rfl
  | three => exact checkLength_withInputs q s

@[simp] theorem blockDone_withInputs (b : Block) (q : List Input) (s : State) :
    blockDone b (s.withInputs q) = (blockDone b s).withInputs q := by
  cases b <;> rfl

@[simp] theorem continueBlock_withInputs (b : Block) (q : List Input) (s : State) :
    continueBlock b (s.withInputs q) = (continueBlock b s).withInputs q := by
  show continueBlock b { s with inputs := q } = _
  unfold continueBlock
  dsimp only
  split_ifs
  · rfl
  · exact blockDone_withInputs b q s

@[simp] theorem echoTaken_withInputs (b : Block) (e : List Byte) (q : List Input) (s : State) :
    echoTaken b e (s.withInputs q) = (echoTaken b e s).withInputs q := by
  show echoTaken b e { s with inputs := q } = _
  unfold echoTaken
  dsimp only
  split_ifs
  · exact continueBlock_withInputs b q { s with echo := e }
  · exact State.raiseError_withInputs _ q (({ s with echo := e } : State).noteFatal b e)
  · rw [← blockDone_withInputs, ← State.noteQuirk_withInputs]
    rfl
  · exact continueBlock_withInputs b q (({ s with echo := e } : State).noteMismatch b e)

@[simp] theorem State.proceed_withInputs (q : List Input) (s : State) :
    (s.withInputs q).proceed = s.proceed.withInputs q := by
  cases hs : s.seq <;> simp only [State.proceed, State.withInputs_seq, hs]
  case rxRead b => simp
  case txEcho b n => simp
  case txWrite b i => split_ifs <;> rfl
  all_goals rfl

@[simp] theorem State.resume_withInputs (q : List Input) (s : State) :
    (s.withInputs q).resume = s.resume.withInputs q := by
  cases hl : s.lkres <;> simp only [State.resume, State.withInputs_lkres, hl]
  case failed => exact State.raiseError_withInputs _ q s
  case nothing | done | bytes | count => exact State.proceed_withInputs q s

@[simp] theorem State.enter_withInputs (q : List Input) (s : State) :
    (s.withInputs q).enter = s.enter.withInputs q := by
  cases hs : s.seq <;> simp only [State.enter, State.withInputs_seq, hs]
  case txWrite b i => split_ifs <;> rfl
  all_goals rfl

/-! ### Passes, Delays and primitives -/

theorem State.dropMove_withInputs (q : List Input) (s : State) :
    (s.withInputs q).dropMove = s.dropMove.withInputs q := by
  cases h : s.dev <;> simp only [State.dropMove, State.withInputs_dev, h] <;> rfl

@[simp] theorem State.deviceTurn_withInputs (q : List Input) (s : State) :
    (s.withInputs q).deviceTurn = s.deviceTurn.withInputs q := by
  unfold State.deviceTurn
  rw [State.dropMove_withInputs, State.withInputs_nextMove]
  rfl

theorem State.correctRegion_withInputs (r : Region) (q : List Input) (s : State) :
    (s.withInputs q).correctRegion r = (s.correctRegion r).withInputs q := by
  have hs (c : Byte) : ({ s.withInputs q with acc := c } : State).stored r =
      ({ s with acc := c } : State).stored r := rfl
  unfold State.correctRegion
  dsimp only
  rw [State.withInputs_computed, hs]
  generalize s.computed r = c
  split_ifs <;> rfl

@[simp] theorem State.correctPass_withInputs (q : List Input) (s : State) :
    (s.withInputs q).correctPass = s.correctPass.withInputs q := by
  simp only [State.correctPass, State.correctRegion_withInputs]

@[simp] theorem verifyStep_withInputs (q : List Input) (s : State) :
    verifyStep (s.withInputs q) = (verifyStep s).withInputs q := by
  unfold verifyStep
  rw [State.withInputs_computed, State.withInputs_verifyPass]
  generalize s.computed .three = acc
  cases s.verifyPass with
  | true => rfl
  | false => exact State.raiseError_withInputs _ q { s with acc := acc, vok := false }

theorem localStep_withInputs (q : List Input) (s : State) :
    localStep (s.withInputs q) = (localStep s).withInputs q := by
  cases hs : s.seq <;>
    simp only [localStep, State.withInputs_seq, hs, correctStep, State.delay, verifyStep_withInputs,
      State.correctPass_withInputs, State.deviceTurn_withInputs, State.goTo_withInputs,
      State.finish_withInputs]

theorem State.linkStep_withInputs {mayStall : Bool} {effect : State → State} (q : List Input) (s : State)
    (he : ∀ u, effect (u.withInputs q) = (effect u).withInputs q) :
    (s.withInputs q).linkStep mayStall effect = (s.linkStep mayStall effect).withInputs q := by
  unfold State.linkStep
  rw [State.withInputs_moveAnswer, State.deviceTurn_withInputs]
  cases s.moveAnswer mayStall with
  | ok => exact he _
  | fail | stall => rfl

theorem State.openPort_withInputs (q : List Input) (s : State) :
    (s.withInputs q).openPort = s.openPort.withInputs q := by
  unfold State.openPort
  rw [State.withInputs_nextMove, State.dropMove_withInputs]
  cases s.nextMove.answer <;> rfl

theorem State.closePort_withInputs (q : List Input) (s : State) :
    (s.withInputs q).closePort = s.closePort.withInputs q := by
  unfold State.closePort
  rw [State.withInputs_linkOpen]
  split_ifs <;> rfl

/-! ### Engine steps -/

/-- The outcome of a step, with another queue of outside events. -/
def withQueue (q : List Input) (o : Out) : Out := andThen o fun t => .next (t.withInputs q)

theorem whenOpen_withInputs {act : State → State} (q : List Input) (s : State)
    (h : ∀ u, act (u.withInputs q) = (act u).withInputs q) :
    whenOpen act (s.withInputs q) = withQueue q (whenOpen act s) := by
  unfold whenOpen
  rw [State.withInputs_linkOpen]
  split_ifs
  · exact congrArg Host.Outcome.next (h s)
  · rfl

/-- An instruction of the link or the wire other than the quirk pattern does not look at the queue. -/
theorem exec_link_withInputs {i : Instr} (hp : i.port ≠ .cmd) (hq : i ≠ .quirk) (q : List Input)
    (s : State) : exec i (s.withInputs q) = withQueue q (exec i s) := by
  cases i with
  | cmdOpen | cmdClose | cmdVerify | cmdCorrect | cmdRecv | cmdSend => exact absurd rfl hp
  | quirk => exact absurd rfl hq
  | lkOpen => exact congrArg Host.Outcome.next (State.openPort_withInputs q s)
  | lkClose => exact congrArg Host.Outcome.next (State.closePort_withInputs q s)
  | lkRead | lkWrite | lkBreak | lkWaiting | lkFlushin | lkFlushout | ack =>
    exact whenOpen_withInputs q s fun u => State.linkStep_withInputs q u fun _ => rfl

/-- The engine takes the same step whatever is queued from outside (00_scope.md R3). -/
theorem engineStep_withInputs (q : List Input) (s : State) :
    engineStep (s.withInputs q) = withQueue q (engineStep s) := by
  have hreq : (s.withInputs q).enter.request = s.enter.request := by simp
  rcases engineStep_cases s with ⟨ho, e⟩ | ⟨ho, hr, e⟩ | ⟨ho, u, i, hr, hd, e⟩ <;> rw [e]
  · have ho' : (s.withInputs q).offsetsInside = false := ho
    simp [engineStep, ho', withQueue, andThen]
  · rw [engineStep_local (s := s.withInputs q) ho (hreq.trans hr), localStep_withInputs]
    rfl
  · obtain ⟨j, hj, hp⟩ := decode_request hr
    obtain rfl : j = i := by rw [hd] at hj; cases hj; rfl
    rw [engineStep_runs (s := s.withInputs q) ho (hreq.trans hr) hd, State.enter_withInputs,
      exec_link_withInputs hp (request_not_quirk hr hd)]
    cases exec j s.enter with
    | next t => exact congrArg Host.Outcome.next (State.resume_withInputs q t)
    | fault | refused => rfl

end Sys2Proof.Machine

namespace Sys2Proof.Safety

open Sys2Proof.Machine

/-- With a queue that holds an event, the step of the engine alone is the step with the queue taken away. -/
theorem engineStep_queued (q : List Input) (s : State) : engineStep { s with inputs := q } =
    andThen (step { s with inputs := [] }) fun t => .next { t with inputs := q } := by
  rw [step_engine (s := { s with inputs := [] }) rfl]
  exact engineStep_withInputs q { s with inputs := [] }

/-- A read of a CSR returns its value and changes nothing else (10_state.md R17 to R24). -/
theorem step_csrRead_value {s : State} {n : Nat} {rest : List Input} {v : BitVec 16}
    (hi : s.inputs = .csrRead n :: rest) (hv : s.csrValue n = some v) (hn : n ≠ 4 ∨ s.busy = false) :
    step s = .next { s with inputs := rest, hrd := v } := by
  have hv' : ({ s with inputs := rest } : State).csrValue n = some v := hv
  have hn' : ¬(n = 4 ∧ ({ s with inputs := rest } : State).busy = true) := by
    show ¬(n = 4 ∧ s.busy = true)
    rcases hn with hn | hn <;> simp [hn]
  rw [step_csrRead hi, csrRead, hv']
  exact if_neg hn'

/-- Settles O34: a read by the number of its CSR; a poll and a turn because the engine does not look at the queue. -/
theorem hostReadsCsrsAndPolls : Obligations.HostReadsCsrsAndPolls := by
  refine ⟨fun s n rest hi => ?_, fun s rest hi => ⟨fun hb => ?_, fun hb => ?_⟩, fun s rest hi => ?_⟩
  · refine ⟨?_, ?_, ?_, ?_, ?_, ?_, ?_, ?_, ?_⟩
    · rintro rfl; exact step_csrRead_value hi rfl (.inl (by decide))
    · rintro rfl; exact step_csrRead_value hi rfl (.inl (by decide))
    · rintro rfl; exact step_csrRead_value hi rfl (.inl (by decide))
    · rintro rfl; exact step_csrRead_value hi rfl (.inl (by decide))
    · rintro rfl hb; exact step_csrRead_value hi rfl (.inr hb)
    · rintro rfl hb
      rw [step_csrRead hi]
      exact if_pos ⟨rfl, hb⟩
    · rintro rfl; exact step_csrRead_value hi rfl (.inl (by decide))
    · rintro rfl; exact step_csrRead_value hi rfl (.inl (by decide))
    · intro hn
      have hv : ({ s with inputs := rest } : State).csrValue n = none := by
        unfold State.csrValue
        simp only [show n ≠ 0 ∧ n ≠ 1 ∧ n ≠ 2 ∧ n ≠ 3 ∧ n ≠ 4 ∧ n ≠ 5 ∧ n ≠ 6 by omega, if_false]
      rw [step_csrRead hi, csrRead, hv]
  · rw [step_input hi]
    exact (if_pos hb).trans (engineStep_queued (.poll :: rest) s)
  · rw [step_input hi]
    exact if_neg (c := s.busy = true) (by simp [hb])
  · rw [step_input hi]
    exact engineStep_queued rest s

end Sys2Proof.Safety
end

section
/-! O51, O52: the invariant along every step. -/

namespace Sys2Proof.Safety

open Sys2Proof.Machine

/-- Settles O51: nothing is stored, every register holds its reset value and the place is idle. -/
theorem resetSatisfiesInv : Obligations.ResetSatisfiesInv :=
  ⟨Memory.reset_wf, Nat.zero_le _, Nat.zero_le _, .inl rfl⟩

/-- The part of the invariant that no place of the pseudocode has a share in. -/
structure Bounds (s : State) : Prop where
  img_wf : Memory.wf s.img = true
  mmcnt_le : s.mmcnt.toNat ≤ 18
  rxcnt_le : s.rxcnt.toNat ≤ Config.imgLen

theorem Inv.bounds {s : State} (h : Inv s) : Bounds s := ⟨h.img_wf, h.mmcnt_le, h.rxcnt_le⟩

theorem Bounds.inv {s : State} (h : Bounds s) (hp : placeOk s) : Inv s :=
  ⟨h.img_wf, h.mmcnt_le, h.rxcnt_le, hp⟩

theorem Bounds.goTo {s : State} (h : Bounds s) (p : SeqPos) : Bounds (s.goTo p) :=
  ⟨h.img_wf, h.mmcnt_le, h.rxcnt_le⟩

theorem Bounds.of_same {s t : State} (h : Bounds s) (same : SameRegisters s t) : Bounds t :=
  ⟨same.img ▸ h.img_wf, same.mmcnt ▸ h.mmcnt_le, same.rxcnt ▸ h.rxcnt_le⟩

theorem Bounds.enter {s : State} (h : Bounds s) : Bounds s.enter :=
  ⟨by simpa using h.img_wf, by simpa using h.mmcnt_le, by simpa using h.rxcnt_le⟩

/-- What holds of the registers at a place depends on the registers and LINKOPEN. -/
theorem placeOk_of_same {s t : State} (h : placeOk s) (same : SameRegisters s t)
    (hl : t.linkOpen = s.linkOpen) : placeOk t := by
  simpa only [placeOk, fsmAtRest, transferring, insideBlock, receivedUpTo, sending, hl, same.seq, same.fsm,
    same.err, same.len, same.dir, same.blk, same.underrun, same.mmcnt, same.rxcnt, same.idx] using h

/-- While a command that is no transfer runs, or none, FSM is at rest (10_state.md R15). -/
theorem placeOk_atRest {s : State} (h : placeOk s) (ht : s.seq.inTransfer = false) : fsmAtRest s := by
  cases hs : s.seq <;> simp only [placeOk, hs] at h <;> simp only [hs, SeqPos.inTransfer, reduceCtorEq] at ht
  case idle => exact h
  case openLink | closeLink | verifyPass | correctPass =>
    obtain ⟨hf, -⟩ := h
    exact hf

/-- A transfer that is going on has a direction and holds the link (10_state.md R16, R27). -/
theorem transferring.holdsLink {d : Dir} {s : State} (h : transferring d s) (hd : d ≠ .none) :
    s.dir ≠ .none ∧ s.linkOpen = true := by
  obtain ⟨rfl, hl, -⟩ := h
  exact ⟨hd, hl⟩

/-- At every place of a transfer, the abort's LK.CLOSE included, the link is still held. -/
theorem placeOk_holdsLink {s : State} (h : placeOk s) (ht : s.seq.inTransfer = true) :
    s.dir ≠ .none ∧ s.linkOpen = true := by
  cases hs : s.seq <;> simp only [placeOk, hs] at h <;>
    simp only [hs, SeqPos.inTransfer, reduceCtorEq] at ht
  case rxFlushIn | rxFlushOut | rxRead | txCorrect | txFlushIn | txFlushOut =>
    obtain ⟨h, -⟩ := h
    exact h.holdsLink (by decide)
  case rxSettle | rxAck | rxEcho | rxCorrect =>
    obtain ⟨⟨h, -⟩, -⟩ := h
    exact h.holdsLink (by decide)
  case txWrite =>
    obtain ⟨-, h, -⟩ := h
    exact h.holdsLink (by decide)
  case txBreak | txWaiting | txEcho | txSettle | txAckWaiting | txAckRead | txAck | txAckEchoWaiting |
      txAckEchoRead =>
    obtain ⟨⟨⟨h, -⟩, -⟩, -⟩ := h
    exact h.holdsLink (by decide)
  case completing =>
    obtain ⟨⟨h, -⟩ | ⟨h, -⟩, -⟩ := h <;> exact h.holdsLink (by decide)
  case aborting =>
    obtain ⟨hd, hl, -⟩ := h
    exact ⟨hd, hl⟩

/-! ### Errors and the end of a command -/

/-- An abort keeps the invariant (60_exceptions.md R181). -/
theorem Bounds.abort {s : State} {e : ErrCode} (h : Bounds s) (ht : s.seq.inTransfer = true)
    (hl : s.dir ≠ .none ∧ s.linkOpen = true)
    (he : e = .linkUnavailable ∨ e = .lengthMismatch ∨ e = .echoMismatchFatal) : Inv (s.raiseError e) := by
  rw [State.raiseError_inTransfer e ht]
  exact ⟨h.img_wf, h.mmcnt_le, h.rxcnt_le, hl.1, hl.2, rfl, he⟩

/-- A rejection keeps the invariant (60_exceptions.md R182). -/
theorem Bounds.reject {s : State} {e : ErrCode} (h : Bounds s) (ht : s.seq.inTransfer = false)
    (hf : fsmAtRest s) : Inv (s.raiseError e) := by
  rw [State.raiseError_rejects e ht]
  exact ⟨h.img_wf, h.mmcnt_le, h.rxcnt_le, hf⟩

/-- The end of a command keeps the invariant when FSM is at rest (10_state.md R32). -/
theorem Bounds.finish {s : State} (h : Bounds s) (hf : fsmAtRest s) : Inv s.finish :=
  ⟨h.img_wf, h.mmcnt_le, h.rxcnt_le, hf⟩

/-! ### The blocks of the image -/

theorem segBase_add_segLen (b : Block) : segBase b + segLen b ≤ Config.imgLen := by cases b <;> decide

/-- FSM of a finished block is what the entry of the next one finds (42_receive.md R129, 43_send.md R157). -/
theorem fsmBefore_nextBlock {b : Block} (hb : b ≠ .three) : fsmBefore (nextBlock b) = segState b := by
  cases b with
  | one | two => rfl
  | three => exact absurd rfl hb

theorem blkBefore_nextBlock {b : Block} (hb : b ≠ .three) : blkBefore (nextBlock b) = blockCode b := by
  cases b with
  | one | two => rfl
  | three => exact absurd rfl hb

theorem segLen_pos (b : Block) : 0 < segLen b := by cases b <;> decide

theorem segLen_lt (b : Block) : segLen b < 2 ^ 14 := by cases b <;> decide

/-- When a byte's echo has been decided without a count, at most the earlier ones have been counted. -/
theorem comparedBefore_succ (b : Block) (i : Nat) : comparedBefore b i ≤ comparedBefore b (i + 1) := by
  cases b <;> simp [comparedBefore, isFinal]

/-- In blocks 1 and 2 one byte adds at most one to MMCNT (43_send.md R152). -/
theorem comparedBefore_add_one {b : Block} (hb : isFinal b = false) (i : Nat) :
    comparedBefore b i + 1 = comparedBefore b (i + 1) := by
  simp [comparedBefore, hb, Nat.add_assoc]

theorem comparedBefore_nextBlock {b : Block} (hb : b ≠ .three) :
    comparedBefore (nextBlock b) 0 = segBase (nextBlock b) := by
  cases b with
  | one | two => rfl
  | three => exact absurd rfl hb

/-- No byte of a block can be counted beyond the block's end. -/
theorem comparedBefore_le_next {b : Block} {i : Nat} (hi : i ≤ segLen b) :
    comparedBefore b i ≤ comparedBefore (nextBlock b) 0 := by
  cases b <;> simp only [comparedBefore, isFinal, nextBlock, segBase, segLen] at hi ⊢ <;> simp <;> omega

/-- MMCNT never exceeds the 18 bytes of blocks 1 and 2 (10_state.md R24). -/
theorem comparedBefore_le {b : Block} {i : Nat} (hi : i ≤ segLen b) : comparedBefore b i ≤ 18 := by
  cases b <;> simp only [comparedBefore, isFinal, segBase, segLen] at hi ⊢ <;> simp <;> omega

/-! ### The lines before a primitive -/

/-- What holds of the registers when the primitive of a place is issued and when it has returned: the segment or
block has been entered and the byte to send fetched (log 1). -/
def enteredOk (s : State) : Prop :=
  match s.seq with
  | .openLink | .closeLink | .completing | .aborting => fsmAtRest s
  | .rxRead b => insideBlock .rx b s ∧ receivedUpTo (segBase b) s ∧ s.mmcnt = 0
  | .txWrite b i => sending b (comparedBefore b i) s ∧ s.idx.toNat = i ∧ i < segLen b
  | .idle | .verifyPass | .correctPass | .rxFlushIn | .rxFlushOut | .rxSettle _ | .rxAck _ | .rxEcho _ => placeOk s
  | .rxCorrect | .txCorrect | .txFlushIn | .txFlushOut | .txBreak _ | .txWaiting _ | .txEcho _ _ => placeOk s
  | .txSettle _ | .txAckWaiting _ | .txAckRead _ _ | .txAck _ | .txAckEchoWaiting _
  | .txAckEchoRead _ _ => placeOk s

/-- `enter` changes the state at the entry of a segment, at the fetch of a byte and at the end of a transfer
(log 1). -/
theorem State.enter_eq_self {s : State} (hr : ∀ b, s.seq ≠ .rxRead b) (hw : ∀ b i, s.seq ≠ .txWrite b i)
    (hc : s.seq ≠ .completing) : s.enter = s := by
  cases hs : s.seq <;> simp only [State.enter, hs]
  case rxRead b => exact absurd hs (hr b)
  case txWrite b i => exact absurd hs (hw b i)
  case completing => exact absurd hs hc

/-- The fetch of byte i of block b (43_send.md R145): IDX is i, and the block is entered with its first byte. -/
theorem enteredOk_txWrite {s : State} {b : Block} {i : Nat} (hs : s.seq = .txWrite b i) (h : placeOk s) :
    enteredOk s.enter := by
  simp only [placeOk, hs] at h
  obtain ⟨hi, ht, hlen, hm, hf⟩ := h
  have hidx : (BitVec.ofNat 14 i).toNat = i := by
    rw [BitVec.toNat_ofNat, Nat.mod_eq_of_lt (hi.trans (segLen_lt b))]
  simp only [enteredOk, State.enter, hs]
  split_ifs with h0
  · exact ⟨⟨⟨ht, rfl, rfl⟩, hlen, hm⟩, hidx, hi⟩
  · have hin : s.fsm = segState b ∧ s.blk = blockCode b := hf.resolve_right fun h => h0 h.1
    simp only [hs]
    exact ⟨⟨⟨ht, hin⟩, hlen, hm⟩, hidx, hi⟩

theorem enteredOk_enter {s : State} (h : placeOk s) : enteredOk s.enter := by
  cases hs : s.seq
  case txWrite b i => exact enteredOk_txWrite hs h
  case rxRead b =>
    simp only [placeOk, hs] at h
    obtain ⟨ht, -, -, hr, hm⟩ := h
    simp only [enteredOk, State.enter, hs]
    exact ⟨⟨ht, rfl, rfl⟩, hr, hm⟩
  case completing =>
    simp only [enteredOk, State.enter, hs]
    exact .inr (.inl rfl)
  all_goals
    rw [State.enter_eq_self (by simp [hs]) (by simp [hs]) (by simp [hs])]
    simp only [enteredOk, hs]
  case openLink | closeLink => exact placeOk_atRest h (by rw [hs]; rfl)
  case aborting =>
    simp only [placeOk, hs] at h
    obtain ⟨-, -, hf, -⟩ := h
    exact .inr (.inr hf)
  all_goals exact h

/-- What holds between the lines before a primitive and those after it depends on the registers and LINKOPEN, and
where the link is being opened or closed on FSM alone. -/
theorem enteredOk_of_same {s t : State} (h : enteredOk s) (same : SameRegisters s t)
    (hl : t.linkOpen = s.linkOpen ∨ s.seq = .openLink ∨ s.seq = .closeLink ∨ s.seq = .completing ∨
      s.seq = .aborting) : enteredOk t := by
  rcases hl with hl | hs | hs | hs | hs
  · simpa only [enteredOk, placeOk, fsmAtRest, transferring, insideBlock, receivedUpTo, sending, hl, same.seq,
      same.fsm, same.err, same.len, same.dir, same.blk, same.underrun, same.mmcnt, same.rxcnt, same.idx]
      using h
  all_goals simpa only [enteredOk, same.seq, hs, fsmAtRest, same.fsm] using h

/-! ### The storing of a segment -/

@[simp] theorem storeSegment_seq (b : Block) (r : List Byte) (s : State) : (storeSegment b r s).seq = s.seq := by
  simp [storeSegment]

@[simp] theorem storeSegment_fsm (b : Block) (r : List Byte) (s : State) : (storeSegment b r s).fsm = s.fsm := by
  simp [storeSegment]

@[simp] theorem storeSegment_blk (b : Block) (r : List Byte) (s : State) : (storeSegment b r s).blk = s.blk := by
  simp [storeSegment]

@[simp] theorem storeSegment_dir (b : Block) (r : List Byte) (s : State) : (storeSegment b r s).dir = s.dir := by
  simp [storeSegment]

@[simp] theorem storeSegment_err (b : Block) (r : List Byte) (s : State) : (storeSegment b r s).err = s.err := by
  simp [storeSegment]

@[simp] theorem storeSegment_linkOpen (b : Block) (r : List Byte) (s : State) :
    (storeSegment b r s).linkOpen = s.linkOpen := by simp [storeSegment]

@[simp] theorem storeSegment_mmcnt (b : Block) (r : List Byte) (s : State) :
    (storeSegment b r s).mmcnt = s.mmcnt := by simp [storeSegment]

@[simp] theorem storeSegment_img (b : Block) (r : List Byte) (s : State) :
    (storeSegment b r s).img = Memory.writeBytes s.img s.rxcnt.toNat r := by simp [storeSegment]

/-- RXCNT counts every stored byte (42_receive.md R123), as long as all lie in the image. -/
theorem storeSegment_rxcnt {b : Block} {r : List Byte} {s : State}
    (h : s.rxcnt.toNat + r.length ≤ Config.imgLen) :
    (storeSegment b r s).rxcnt.toNat = s.rxcnt.toNat + r.length := by
  have hlt : s.rxcnt.toNat + r.length < 2 ^ 16 := h.trans_lt (by decide)
  have hr : r.length % 2 ^ 16 = r.length := Nat.mod_eq_of_lt (by omega)
  simp only [storeSegment, State.noteUnderrun_rxcnt, BitVec.toNat_add, BitVec.toNat_ofNat, hr]
  exact Nat.mod_eq_of_lt hlt

/-- UNDERRUN stays set once a segment came short (42_receive.md R123, R124). -/
theorem storeSegment_underrun (b : Block) (r : List Byte) (s : State) :
    (storeSegment b r s).underrun = true ↔ s.underrun = true ∨ r.length < segLen b := by
  unfold storeSegment State.noteUnderrun
  split_ifs with h <;> simp [h]

/-- A segment read of at most its length takes RXCNT and UNDERRUN to the end of the segment. -/
theorem storeSegment_receivedUpTo {b : Block} {r : List Byte} {s : State} (h : receivedUpTo (segBase b) s)
    (hr : r.length ≤ segLen b) : receivedUpTo (segBase b + segLen b) (storeSegment b r s) := by
  obtain ⟨hle, hu⟩ := h
  have hin := segBase_add_segLen b
  unfold receivedUpTo
  rw [storeSegment_underrun, storeSegment_rxcnt (by omega), hu]
  omega

theorem storeSegment_bounds {b : Block} {r : List Byte} {s : State} (h : Bounds s)
    (hr : s.rxcnt.toNat + r.length ≤ Config.imgLen) : Bounds (storeSegment b r s) where
  img_wf := by rw [storeSegment_img]; exact Memory.writeBytes_wf h.img_wf hr
  mmcnt_le := by rw [storeSegment_mmcnt]; exact h.mmcnt_le
  rxcnt_le := by rw [storeSegment_rxcnt hr]; exact hr

theorem storeSegment_insideBlock {d : Dir} {b c : Block} {r : List Byte} {s : State}
    (h : insideBlock d c s) : insideBlock d c (storeSegment b r s) := by
  simpa [insideBlock, transferring] using h

/-- The length check after segment 3 (42_receive.md R125). -/
theorem checkLength_inv {s : State} (hb : Bounds s) (hs : s.seq.inTransfer = true)
    (hi : insideBlock .rx .three s) (hr : receivedUpTo Config.imgLen s) (hm : s.mmcnt = 0) :
    Inv (checkLength s) := by
  obtain ⟨-, hu⟩ := hr
  have hbl : Bounds { s with len := s.rxcnt } := ⟨hb.img_wf, hb.mmcnt_le, hb.rxcnt_le⟩
  unfold checkLength
  dsimp only
  split_ifs with h
  · have hnu : s.underrun = false := by
      rw [← Bool.not_eq_true, hu]
      omega
    exact (hbl.goTo .rxCorrect).inv ⟨hi, h, rfl, hnu, hm⟩
  · exact hbl.abort hs (hi.1.holdsLink (by decide)) (.inr (.inl rfl))

/-- The lines after the segment read of RECV (42_receive.md R123 to R125). -/
theorem proceed_rxRead_inv {s : State} {b : Block} (hs : s.seq = .rxRead b) (hb : Bounds s)
    (h : enteredOk s) (hr : s.lkres.bytesOf.length ≤ segLen b) : Inv s.proceed := by
  simp only [enteredOk, hs] at h
  obtain ⟨hi, hrec, hm⟩ := h
  have hin : s.rxcnt.toNat + s.lkres.bytesOf.length ≤ Config.imgLen := by
    have := segBase_add_segLen b
    have := hrec.1
    omega
  have hb' := storeSegment_bounds (b := b) hb hin
  have hi' := storeSegment_insideBlock (b := b) (r := s.lkres.bytesOf) hi
  have hrec' := storeSegment_receivedUpTo hrec hr
  have hm' : (storeSegment b s.lkres.bytesOf s).mmcnt = 0 := by rw [storeSegment_mmcnt, hm]
  simp only [State.proceed, hs]
  cases b with
  | one => exact (hb'.goTo _).inv ⟨hi', by decide, hrec', hm'⟩
  | two => exact (hb'.goTo _).inv ⟨hi', by decide, hrec', hm'⟩
  | three => exact checkLength_inv hb' (by rw [storeSegment_seq, hs]; rfl) hi' hrec' hm'

/-! ### The byte loop of SEND -/

/-- A transfer whose last block is done goes on to its LK.CLOSE (42_receive.md R126, 43_send.md R155). -/
theorem Bounds.completing {s : State} (h : Bounds s)
    (hi : insideBlock .rx .three s ∨ insideBlock .tx .three s) (hlen : s.len.toNat = Config.imgLen) :
    Inv (s.goTo .completing) := (h.goTo _).inv ⟨hi, hlen⟩

/-- The end of block b's byte loop: the ACK exchange, or the end of the transfer (43_send.md R153 to R155). -/
theorem blockDone_inv {b : Block} {s : State} (hb : Bounds s)
    (h : sending b (comparedBefore (nextBlock b) 0) s) : Inv (blockDone b s) := by
  obtain ⟨hi, hlen, hm⟩ := h
  cases b with
  | one => exact (hb.goTo _).inv ⟨⟨hi, hlen, hm⟩, by decide⟩
  | two => exact (hb.goTo _).inv ⟨⟨hi, hlen, hm⟩, by decide⟩
  | three => exact hb.completing (.inr hi) hlen

/-- The byte loop goes on after byte IDX (43_send.md R145). -/
theorem continueBlock_inv {b : Block} {s : State} (hb : Bounds s)
    (h : sending b (comparedBefore b (s.idx.toNat + 1)) s) (hidx : s.idx.toNat < segLen b) :
    Inv (continueBlock b s) := by
  obtain ⟨hi, hlen, hm⟩ := h
  unfold continueBlock
  split_ifs with hlt
  · exact (hb.goTo _).inv ⟨hlt, hi.1, hlen, hm, .inl hi.2⟩
  · exact blockDone_inv hb ⟨hi, hlen, hm.trans (comparedBefore_le_next hidx)⟩

/-- A counted mismatch is one of the 18 bytes of blocks 1 and 2 (10_state.md R24, 43_send.md R152). -/
theorem noteMismatch_sending {b : Block} {e : List Byte} {s : State} (hf : isFinal b = false)
    (h : sending b (comparedBefore b s.idx.toNat) s) (hidx : s.idx.toNat < segLen b) :
    (s.noteMismatch b e).mmcnt.toNat ≤ 18 ∧
      sending b (comparedBefore b (s.idx.toNat + 1)) (s.noteMismatch b e) := by
  obtain ⟨hi, hlen, hm⟩ := h
  have hle := comparedBefore_le (b := b) (i := s.idx.toNat + 1) hidx
  have hadd := comparedBefore_add_one hf s.idx.toNat
  have hmm : (s.noteMismatch b e).mmcnt.toNat = s.mmcnt.toNat + 1 := by
    rw [State.noteMismatch_mmcnt, BitVec.toNat_add]
    exact Nat.mod_eq_of_lt (by simp; omega)
  exact ⟨by omega, hi, hlen, by omega⟩

/-- The decision on an echo keeps the invariant (43_send.md R149 to R152). -/
theorem echoTaken_inv {b : Block} {n : Nat} {e : List Byte} {s : State} (hb : Bounds s)
    (hs : s.seq = .txEcho b n) (h : sending b (comparedBefore b s.idx.toNat) s)
    (hidx : s.idx.toNat < segLen b) : Inv (echoTaken b e s) := by
  have hbe : Bounds { s with echo := e } := ⟨hb.img_wf, hb.mmcnt_le, hb.rxcnt_le⟩
  have hse : sending b (comparedBefore b s.idx.toNat) { s with echo := e } := h
  obtain ⟨hi, hlen, hm⟩ := h
  rcases echoTaken_cases b e s with h | ⟨-, h⟩ | ⟨hf, h | h⟩ <;> rw [h]
  · exact continueBlock_inv hbe ⟨hi, hlen, hm.trans (comparedBefore_succ b _)⟩ hidx
  · exact Bounds.abort ⟨hb.img_wf, hb.mmcnt_le, hb.rxcnt_le⟩
      (by rw [State.noteFatal_seq]; simp [hs, SeqPos.inTransfer]) (hi.1.holdsLink (by decide)) (.inr (.inr rfl))
  · refine blockDone_inv ⟨by simpa using hb.img_wf, by simpa using hb.mmcnt_le, by simpa using hb.rxcnt_le⟩ ?_
    have hle := hm.trans (comparedBefore_le_next hidx.le)
    simpa [sending, insideBlock, transferring] using (⟨hi, hlen, hle⟩ : sending b _ s)
  · obtain ⟨h18, hsm⟩ := noteMismatch_sending (e := e) hf hse hidx
    exact continueBlock_inv ⟨hb.img_wf, h18, hb.rxcnt_le⟩ hsm hidx

/-- Where the echo of byte IDX is read (43_send.md R148). -/
theorem goTo_echoPlace_inv {b : Block} {s : State} (hb : Bounds s)
    (h : sending b (comparedBefore b s.idx.toNat) s) (hidx : s.idx.toNat < segLen b) :
    Inv (s.goTo (echoPlace b s)) := by
  unfold echoPlace
  split_ifs with hlast
  · exact (hb.goTo _).inv ⟨h, hidx, le_rfl, fun _ => rfl⟩
  · exact (hb.goTo _).inv ⟨h, by simp only [State.goTo_idx]; omega⟩

/-- The lines after the write of byte i (43_send.md R145, R147). -/
theorem proceed_txWrite_inv {s : State} {b : Block} {i : Nat} (hs : s.seq = .txWrite b i) (hb : Bounds s)
    (h : enteredOk s) : Inv s.proceed := by
  simp only [enteredOk, hs] at h
  obtain ⟨hsend, rfl, hi⟩ := h
  simp only [State.proceed, hs]
  split_ifs with hf
  · exact goTo_echoPlace_inv hb hsend hi
  · exact (hb.goTo _).inv ⟨hsend, by rintro rfl; exact hf rfl, hi⟩

/-- The next block of a SEND is about to be entered after the ACK exchange of block b (43_send.md R153, R156). -/
theorem txWrite_nextBlock_inv {b : Block} {s : State} (hb : Bounds s) (h : sending b (segBase (nextBlock b)) s)
    (hne : b ≠ .three) : Inv (s.goTo (.txWrite (nextBlock b) 0)) := by
  obtain ⟨⟨ht, hf, hk⟩, hlen, hm⟩ := h
  exact (hb.goTo _).inv ⟨segLen_pos _, ht, hlen, (comparedBefore_nextBlock hne).symm ▸ hm,
    .inr ⟨rfl, hf.trans (fsmBefore_nextBlock hne).symm, hk.trans (blkBefore_nextBlock hne).symm⟩⟩

/-! ### The lines after a primitive -/

/-- The lines after a primitive that has returned keep the invariant, place by place. -/
theorem proceed_inv {s : State} (hb : Bounds s) (h : enteredOk s)
    (hr : ∀ b, s.seq = .rxRead b → s.lkres.bytesOf.length ≤ segLen b) : Inv s.proceed := by
  cases hs : s.seq
  case rxRead b => exact proceed_rxRead_inv hs hb h (hr b hs)
  case txWrite b i => exact proceed_txWrite_inv hs hb h
  all_goals simp only [enteredOk, placeOk, hs] at h
  all_goals simp only [State.proceed, hs]
  case openLink | closeLink | completing | aborting => exact hb.finish h
  case rxFlushIn => exact (hb.goTo _).inv h
  case rxFlushOut =>
    obtain ⟨ht, -, hk, hu, hm⟩ := h
    have hrec : receivedUpTo 0 { s with fsm := .flushed, rxcnt := 0 } := ⟨le_rfl, by simp [hu]⟩
    exact ⟨hb.img_wf, hb.mmcnt_le, Nat.zero_le _, ht, rfl, hk, hrec, hm⟩
  case rxAck => exact (hb.goTo _).inv h
  case rxEcho b =>
    obtain ⟨⟨ht, hf, hk⟩, hne, hrec, hm⟩ := h
    exact ⟨hb.img_wf, hb.mmcnt_le, hb.rxcnt_le, ht, hf.trans (fsmBefore_nextBlock hne).symm,
      hk.trans (blkBefore_nextBlock hne).symm, hrec, hm⟩
  case txFlushIn => exact (hb.goTo _).inv h
  case txFlushOut =>
    obtain ⟨ht, -, hk, hlen, hm⟩ := h
    exact ⟨hb.img_wf, hb.mmcnt_le, hb.rxcnt_le, by decide, ht, hlen, by simp [hm], .inr ⟨rfl, rfl, hk⟩⟩
  case txBreak b =>
    obtain ⟨hsend, -, hi⟩ := h
    exact goTo_echoPlace_inv hb hsend hi
  case txWaiting b =>
    obtain ⟨hsend, hi⟩ := h
    refine (hb.goTo _).inv ⟨hsend, Nat.lt_of_succ_lt hi, le_max_right _ _, fun hlast => ?_⟩
    exact absurd hlast hi.ne
  case txEcho b n =>
    obtain ⟨hsend, hi, -⟩ := h
    exact echoTaken_inv hb hs hsend hi
  case txAckWaiting | txAck | txAckEchoWaiting => exact (hb.goTo _).inv h
  case txAckRead b n => exact ⟨hb.img_wf, hb.mmcnt_le, hb.rxcnt_le, h⟩
  case txAckEchoRead b n =>
    obtain ⟨hsend, hne⟩ := h
    exact txWrite_nextBlock_inv ⟨hb.img_wf, hb.mmcnt_le, hb.rxcnt_le⟩ hsend hne
  case idle | verifyPass | correctPass | rxSettle | rxCorrect | txCorrect | txSettle =>
    exact hb.inv (by simpa only [placeOk, hs] using h)

/-! ### What a primitive answers -/

/-- A primitive that has failed or has not returned leaves LINKOPEN (40_link.md R81, R91, U6). -/
theorem exec_link_unreturned {i : Instr} {s t : State} (hp : i.port ≠ .cmd) (hq : i ≠ .quirk)
    (h : exec i s = .next t) (hr : t.lkres = .failed ∨ t.lkres = .stalled) : t.linkOpen = s.linkOpen := by
  by_cases ho : i = .lkOpen
  · subst ho
    cases h
    unfold State.openPort at hr ⊢
    cases hm : s.nextMove.answer with
    | ok => simp [hm] at hr
    | fail | stall => simp
  · by_cases hc : i = .lkClose
    · subst hc
      cases h
      simp at hr
    · obtain ⟨hs, ht⟩ := exec_link_linkOpen hp hq ho hc h
      rw [hs, ht]

/-- The unit of every place but those of LK.OPEN and LK.CLOSE is neither of the two (42_receive.md R127,
43_send.md R156). -/
theorem request_keeps_link {s : State} {u : CodeUnit} {i : Instr} (hu : s.request = some u)
    (hd : decode u = .ok i) : (i ≠ .lkOpen ∧ i ≠ .lkClose) ∨ s.seq = .openLink ∨ s.seq = .closeLink ∨
      s.seq = .completing ∨ s.seq = .aborting := by
  cases hs : s.seq <;> simp only [State.request, hs, reduceCtorEq, Option.some.injEq] at hu <;> subst hu <;>
    cases hd <;> simp

/-- The segment read of RECV asks for the segment's length (42_receive.md R123, R124). -/
theorem request_rxRead {s : State} {b : Block} (hs : s.seq = .rxRead b) :
    s.request = some (.lkReq 0x3#4 (.size (segLen b))) := by
  simp only [State.request, hs]

theorem request_completing {s : State} (hs : s.seq = .completing) :
    s.request = some (.lkReq 0x2#4 .none) := by
  simp only [State.request, hs]

/-! ### Engine steps -/

/-- Where a place's primitive has not returned, the registers still fit the place (93_implementation_defined.md
U6): only a write, a break or LK.OPEN can be held. -/
theorem stalled_inv {s v : State} {u : CodeUnit} {i : Instr} (h : Inv s) (hu : s.enter.request = some u)
    (hd : decode u = .ok i) (hv : exec i s.enter = .next v) (same : SameRegisters s.enter v)
    (hl : v.linkOpen = s.enter.linkOpen) (hst : v.lkres = .stalled) : Inv v := by
  have hseq : v.seq = s.seq := same.seq.trans s.enter_seq
  refine (h.bounds.enter.of_same same).inv ?_
  by_cases hr : ∃ b, s.seq = .rxRead b
  · obtain ⟨b, hs⟩ := hr
    rw [request_rxRead (s.enter_seq.trans hs)] at hu
    cases hu
    cases hd
    rcases exec_lkRead_answer hv with ha | ⟨r, ha, -⟩ <;> rw [ha] at hst <;> cases hst
  by_cases hc : s.seq = .completing
  · rw [request_completing (s.enter_seq.trans hc)] at hu
    cases hu
    cases hd
    cases hv
    simp at hst
  by_cases hw : ∃ b j, s.seq = .txWrite b j
  · obtain ⟨b, j, hs⟩ := hw
    have he := enteredOk_of_same (enteredOk_txWrite hs h.place) same (.inl hl)
    simp only [enteredOk, hseq, hs] at he
    obtain ⟨⟨⟨ht, hin⟩, hlen, hm⟩, -, hi⟩ := he
    simp only [placeOk, hseq, hs]
    exact ⟨hi, ht, hlen, hm, .inl hin⟩
  · have he : s.enter = s := State.enter_eq_self (by simpa using hr) (by simpa using hw) hc
    rw [he] at same hl
    exact placeOk_of_same h.place same hl

/-- Where the link fails, the running command ends or the transfer aborts (40_link.md R91, R92). -/
theorem failed_inv {s v : State} (h : Inv s) (same : SameRegisters s.enter v)
    (hl : v.linkOpen = s.enter.linkOpen) : Inv (v.raiseError .linkUnavailable) := by
  have hb := h.bounds.enter.of_same same
  have hseq : v.seq = s.seq := same.seq.trans s.enter_seq
  cases ht : s.seq.inTransfer with
  | true =>
    obtain ⟨hd, ho⟩ := placeOk_holdsLink h.place ht
    refine hb.abort (by rw [hseq, ht]) ⟨?_, ?_⟩ (.inl rfl)
    · rw [same.dir, State.enter_dir]; exact hd
    · rw [hl, State.enter_linkOpen]; exact ho
  | false =>
    have he : s.enter = s := by
      refine State.enter_eq_self ?_ ?_ ?_ <;> intros <;> intro hs <;> simp [hs, SeqPos.inTransfer] at ht
    refine hb.reject (by rw [hseq, ht]) ?_
    have hf := placeOk_atRest h.place ht
    rw [he] at same
    simpa only [fsmAtRest, same.fsm] using hf

/-- The lines around a primitive, whatever the link answers, keep the invariant. -/
theorem resume_inv {s v : State} {u : CodeUnit} {i : Instr} (h : Inv s) (hu : s.enter.request = some u)
    (hd : decode u = .ok i) (hp : i.port ≠ .cmd) (hq : i ≠ .quirk) (hv : exec i s.enter = .next v)
    (same : SameRegisters s.enter v) : Inv v.resume := by
  rcases v.resume_cases with ⟨hl, e⟩ | ⟨hl, e⟩ | ⟨hf, hst, e⟩ <;> rw [e]
  · exact failed_inv h same (exec_link_unreturned hp hq hv (.inl hl))
  · exact stalled_inv h hu hd hv same (exec_link_unreturned hp hq hv (.inr hl)) hl
  · refine proceed_inv (h.bounds.enter.of_same same) (enteredOk_of_same (enteredOk_enter h.place) same ?_) ?_
    · refine (request_keeps_link hu hd).imp_left fun ⟨ho, hc⟩ => ?_
      obtain ⟨hs, ht⟩ := exec_link_linkOpen hp hq ho hc hv
      rw [hs, ht]
    · intro b hs
      rw [request_rxRead (same.seq ▸ hs)] at hu
      cases hu
      cases hd
      rcases exec_lkRead_answer hv with ha | ⟨r, ha, hle⟩
      · exact absurd ha hf
      · rw [ha]; exact hle

/-- VERIFY's pass ends the command with FSM as it was (41_checksum.md R105). -/
theorem verifyStep_inv {s : State} (h : Inv s) (hs : s.seq = .verifyPass) : Inv (verifyStep s) := by
  have ht : s.seq.inTransfer = false := by rw [hs]; rfl
  have hf := placeOk_atRest h.place ht
  obtain ⟨acc, e | e⟩ := verifyStep_cases s <;> rw [e]
  · exact Bounds.finish ⟨h.img_wf, h.mmcnt_le, h.rxcnt_le⟩ hf
  · exact Bounds.reject ⟨h.img_wf, h.mmcnt_le, h.rxcnt_le⟩ ht hf

theorem correctPass_bounds {s : State} (h : Bounds s) : Bounds s.correctPass :=
  ⟨State.correctPass_wf h.img_wf, by rw [State.correctPass_mmcnt]; exact h.mmcnt_le,
    by rw [State.correctPass_rxcnt]; exact h.rxcnt_le⟩

/-- After its CorrectPass a SEND flushes the link (43_send.md R142, R143). -/
theorem Bounds.txFlushIn {s : State} (h : Bounds s)
    (hp : transferring .tx s ∧ s.fsm = .idle ∧ s.blk = 0 ∧ s.len.toNat = Config.imgLen ∧ s.mmcnt = 0) :
    Inv (s.goTo .txFlushIn) := (h.goTo _).inv hp

/-- A checksum pass or a Delay keeps the invariant. -/
theorem localStep_inv {s : State} (h : Inv s) : Inv (localStep s) := by
  have hc := correctPass_bounds h.bounds
  have hp := h.place
  cases hs : s.seq <;> simp only [localStep, hs] <;> simp only [placeOk, hs] at hp
  case verifyPass => exact verifyStep_inv h hs
  case correctPass =>
    refine hc.finish ?_
    obtain ⟨hf, -⟩ := hp
    simpa only [fsmAtRest, State.correctPass_fsm] using hf
  case rxCorrect =>
    obtain ⟨hi, hn, hlen, -⟩ := hp
    refine hc.completing (.inl ?_) ?_
    · simpa [insideBlock, transferring] using hi
    · rw [State.correctPass_len, hlen, hn]
  case txCorrect =>
    exact hc.txFlushIn (by simpa [placeOk, transferring] using hp)
  case rxSettle | txSettle =>
    refine ((h.bounds.of_same s.deviceTurn_same).goTo _).inv ?_
    have hd : placeOk s.deviceTurn := placeOk_of_same h.place s.deviceTurn_same (by simp)
    simp only [placeOk, s.deviceTurn_same.seq, hs] at hd
    exact hd
  all_goals exact h

/-- Every engine step keeps the invariant. -/
theorem engineStep_inv {s t : State} (h : Inv s) (he : engineStep s = .next t) : Inv t := by
  rcases engineStep_next he with ⟨-, -, rfl⟩ | ⟨-, u, i, v, hu, hd, hp, hq, hv, same, rfl⟩
  · exact localStep_inv h
  · exact resume_inv h hu hd hp hq hv same

/-! ### Outside events -/

/-- With no command running, the invariant asks of the registers no more than FSM at rest. -/
theorem Inv.idle {s : State} (h : Inv s) (hb : s.busy = false) : fsmAtRest s :=
  placeOk_atRest h.place (by rw [busy_eq_false.1 hb]; rfl)

theorem Bounds.inv_idle {s : State} (h : Bounds s) (hb : s.busy = false) (hf : fsmAtRest s) : Inv s :=
  h.inv (by simp only [placeOk, busy_eq_false.1 hb]; exact hf)

theorem Bounds.startSession {s : State} (h : Bounds s) (d : Dir) : Bounds (s.startSession d) :=
  ⟨h.img_wf, Nat.zero_le _, h.rxcnt_le⟩

/-- A command that the decoder has taken from an idle engine, at its first step or rejected, keeps the invariant
(30_encoding.md R77). -/
theorem commandBody_inv {s : State} (c : Byte) (hb : Bounds s) (hs : s.seq = .idle) (hf : fsmAtRest s)
    (he : s.err = .none) : Inv (commandBody c s) := by
  have ht : s.seq.inTransfer = false := by rw [hs]; rfl
  refine commandBody_induction c ?_ ?_ (fun _ => ?_) ?_ ?_ ?_ (hb.reject ht hf)
  · unfold openBody
    split_ifs with hl
    · exact hb.reject ht hf
    · exact (hb.goTo _).inv ⟨hf, he, Bool.eq_false_of_not_eq_true hl⟩
  · exact (hb.goTo _).inv ⟨hf, he⟩
  · unfold verifyBody
    split_ifs with hlen
    · exact (hb.goTo _).inv ⟨hf, he, hlen⟩
    · exact Bounds.reject ⟨hb.img_wf, hb.mmcnt_le, hb.rxcnt_le⟩ ht hf
  · unfold correctBody
    split_ifs with hlen
    · exact (hb.goTo _).inv ⟨hf, he, hlen⟩
    · exact hb.reject ht hf
  · unfold recvBody
    dsimp only
    split_ifs with hl
    · exact ((hb.startSession .rx).goTo _).inv ⟨⟨rfl, hl, he⟩, rfl, rfl, rfl, rfl⟩
    · exact (hb.startSession .rx).reject ht (.inl rfl)
  · unfold sendBody
    dsimp only
    split_ifs with hlen hl
    · exact ((hb.startSession .tx).goTo _).inv ⟨⟨rfl, hl, he⟩, rfl, rfl, hlen, rfl⟩
    · exact (hb.startSession .tx).reject ht (.inl rfl)
    · exact (hb.startSession .tx).reject ht (.inl rfl)

/-- Taking a byte at CMD keeps the invariant, at any time (10_state.md R18). -/
theorem dispatch_commandBody_inv {s : State} (c : Byte) (h : Inv s) : Inv (dispatch (commandBody c) s) :=
  dispatch_induction (fun _ => h) fun hb =>
    commandBody_inv c ⟨h.img_wf, h.mmcnt_le, h.rxcnt_le⟩ (busy_eq_false.1 hb) (h.idle hb) rfl

/-- A request or symbol taken by an idle engine leaves the registers (log 10). -/
theorem exec_request_inv {i : Instr} {s t : State} (h : Inv s) (hb : s.busy = false) (hp : i.port ≠ .cmd)
    (he : exec i s = .next t) : Inv t := by
  have same := exec_request_same hb hp he
  refine (h.bounds.of_same same).inv_idle ?_ ?_
  · rw [busy_eq_false, same.seq, busy_eq_false.1 hb]
  · simpa only [fsmAtRest, same.fsm] using h.idle hb

/-- The invariant does not look at the queue of outside events, the value last read and RXQ. -/
theorem Inv.quiet {s : State} (h : Inv s) (rest : List Input) (x : BitVec 16) (q : List Byte) :
    Inv { s with inputs := rest, hrd := x, rxq := q } :=
  ⟨h.img_wf, h.mmcnt_le, h.rxcnt_le, h.place⟩

/-- Settles O52, by the cases of a step: the engine's own by place, the commands by body, and the host's and the
device side's events by what they touch. -/
theorem everyStepKeepsInv : Obligations.EveryStepKeepsInv := by
  intro s t h hstep
  have hq (rest : List Input) : Inv { s with inputs := rest } := h.quiet rest s.hrd s.rxq
  cases step_cases hstep with
  | engine q _ he => exact engineStep_inv (hq q) he
  | command c i rest => exact dispatch_commandBody_inv c (hq rest)
  | request i rest hb hp he => exact exec_request_inv (hq rest) hb hp he
  | writeImg a v rest hb ha =>
    exact Bounds.inv_idle ⟨Memory.write_wf v h.img_wf ha, h.mmcnt_le, h.rxcnt_le⟩ hb (h.idle hb)
  | writeLen v rest hb => exact Bounds.inv_idle ⟨h.img_wf, h.mmcnt_le, h.rxcnt_le⟩ hb (h.idle hb)
  | quiet rest x q => exact h.quiet rest x q
  | reset => exact ⟨Memory.reset_wf, Nat.zero_le _, Nat.zero_le _, .inl rfl⟩

end Sys2Proof.Safety
end

section
/-! O33: the host's access to IMG. -/

namespace Sys2Proof.Machine

/-- No access of IMG while a command runs (20_memory.md R46, 93_implementation_defined.md U7). -/
theorem hostImg_busy {a : Nat} {act : State → State} {s : State} (hb : s.busy = true) :
    hostImg a act s = .refused .hostAccessWhileBusy := by simp [hostImg, hb]

/-- No access above 0x3F52 (R46, U8). -/
theorem hostImg_outside {a : Nat} {act : State → State} {s : State} (hb : s.busy = false)
    (ha : 0x3F52 < a) : hostImg a act s = .refused .hostImgOffset := by
  have hn : ¬ a < Config.imgLen := by unfold Config.imgLen; omega
  simp [hostImg, hb, hn]

theorem hostImg_inside {a : Nat} {act : State → State} {s : State} (hb : s.busy = false)
    (ha : a ≤ 0x3F52) : hostImg a act s = .next (act s) := by
  have hl : a < Config.imgLen := by unfold Config.imgLen; omega
  simp [hostImg, hb, hl]

theorem step_imgRead {s : State} {a : Nat} {rest : List Input} (h : s.inputs = .imgRead a :: rest) :
    step s = hostImg a (fun t => { t with hrd := (t.imgByte a).setWidth 16 }) { s with inputs := rest } :=
  step_input h

theorem step_imgWrite {s : State} {a : Nat} {v : Byte} {rest : List Input}
    (h : s.inputs = .imgWrite a v :: rest) :
    step s = hostImg a (State.setImg a v) { s with inputs := rest } :=
  step_input h

end Sys2Proof.Machine

namespace Sys2Proof.Safety

open Sys2Proof.Machine

/-- Settles O33: a read and a write go through the same test of BUSY and offset, and a write is one stored byte. -/
theorem hostImageAccess : Obligations.HostImageAccess := by
  intro s a v rest
  have hbusy : ({ s with inputs := rest } : State).busy = s.busy := rfl
  rw [← hbusy]
  constructor <;> intro hi
  · rw [step_imgRead hi]
    exact ⟨hostImg_busy, hostImg_outside, hostImg_inside⟩
  · rw [step_imgWrite hi]
    refine ⟨hostImg_busy, hostImg_outside, fun hb ha => ⟨_, hostImg_inside hb ha, rfl, ?_, fun a' hne => ?_⟩⟩
    · exact State.imgByte_setImg_same _ a v
    · exact State.imgByte_setImg_other _ v hne

end Sys2Proof.Safety
end

section
/-! What leaves IMG as it was: every instruction, the lines around a primitive, and the engine steps at the places
without a memory write (20_memory.md R47). -/

namespace Sys2Proof.Machine

/-- IMG has the same stored bytes, and the same free values at the offsets where nothing is stored. -/
structure SameImage (s t : State) : Prop where
  img : t.img = s.img
  epoch : t.epoch = s.epoch

theorem SameImage.refl (s : State) : SameImage s s := ⟨rfl, rfl⟩

theorem SameImage.trans {s t u : State} (h : SameImage s t) (g : SameImage t u) : SameImage s u :=
  ⟨g.img.trans h.img, g.epoch.trans h.epoch⟩

theorem SameRegisters.sameImage {s t : State} (h : SameRegisters s t) : SameImage s t := ⟨h.img, h.epoch⟩

/-- Both states then read the same byte at every offset. -/
theorem SameImage.imgByte {s t : State} (h : SameImage s t) : t.imgByte = s.imgByte :=
  State.imgByte_congr h.img h.epoch

theorem SameImage.verifyPass {s t : State} (h : SameImage s t) : t.verifyPass = s.verifyPass :=
  State.verifyPass_congr h.imgByte

/-- A step that began with writes of other fields. -/
theorem SameImage.after {s u t : State} (h : SameImage u t) (hi : u.img = s.img) (he : u.epoch = s.epoch) :
    SameImage s t := SameImage.trans ⟨hi, he⟩ h

theorem State.goTo_sameImage (p : SeqPos) (s : State) : SameImage s (s.goTo p) := ⟨rfl, rfl⟩

theorem State.finish_sameImage (s : State) : SameImage s s.finish := ⟨rfl, rfl⟩

theorem State.raiseError_sameImage (e : ErrCode) (s : State) : SameImage s (s.raiseError e) :=
  ⟨by simp, by simp⟩

/-! ### The lines around a primitive -/

theorem State.enter_sameImage (s : State) : SameImage s s.enter := ⟨by simp, by simp⟩

theorem checkLength_sameImage (s : State) : SameImage s (checkLength s) := by
  unfold checkLength
  dsimp only
  split_ifs
  · exact ⟨rfl, rfl⟩
  · exact (State.raiseError_sameImage _ _).after rfl rfl

/-- After the bytes of a segment are stored, IMG is not written again in that step (42_receive.md R123 to R125). -/
theorem afterSegment_sameImage (b : Block) (s : State) : SameImage s (afterSegment b s) := by
  cases b with
  | one | two => exact State.goTo_sameImage _ s
  | three => exact checkLength_sameImage s

theorem blockDone_sameImage (b : Block) (s : State) : SameImage s (blockDone b s) := by
  cases b <;> exact State.goTo_sameImage _ s

theorem continueBlock_sameImage (b : Block) (s : State) : SameImage s (continueBlock b s) := by
  unfold continueBlock
  split_ifs
  · exact State.goTo_sameImage _ s
  · exact blockDone_sameImage b s

/-- No decision on an echo writes IMG (43_send.md R149 to R152). -/
theorem echoTaken_sameImage (b : Block) (e : List Byte) (s : State) : SameImage s (echoTaken b e s) := by
  rcases echoTaken_cases b e s with h | ⟨-, h⟩ | ⟨-, h | h⟩ <;> rw [h]
  · exact (continueBlock_sameImage b _).after rfl rfl
  · exact (State.raiseError_sameImage _ _).after rfl rfl
  · exact (blockDone_sameImage b _).after (by simp) (by simp)
  · exact (continueBlock_sameImage b _).after rfl rfl

end Sys2Proof.Machine

namespace Sys2Proof.Safety

open Sys2Proof.Machine

/-- Of the lines after a primitive only the storing of a segment writes IMG (20_memory.md R47). -/
theorem proceed_sameImage {s : State} (h : writesImg s.seq = false) : SameImage s s.proceed := by
  cases hs : s.seq <;> simp only [State.proceed, hs]
  case rxRead b => simp [writesImg, hs] at h
  case txEcho b n => exact echoTaken_sameImage b _ s
  case txWrite b i => split_ifs <;> exact ⟨rfl, rfl⟩
  all_goals exact ⟨rfl, rfl⟩

theorem resume_sameImage {s : State} (h : writesImg s.seq = false) : SameImage s s.resume := by
  rcases s.resume_cases with ⟨-, e⟩ | ⟨-, e⟩ | ⟨-, -, e⟩ <;> rw [e]
  · exact State.raiseError_sameImage _ s
  · exact .refl s
  · exact proceed_sameImage h

/-- VERIFY's pass and the Delays leave IMG (41_checksum.md R103, 40_link.md R95). -/
theorem localStep_sameImage {s : State} (h : writesImg s.seq = false) : SameImage s (localStep s) := by
  cases hs : s.seq <;> simp only [localStep, hs]
  case verifyPass =>
    obtain ⟨acc, e | e⟩ := verifyStep_cases s <;> rw [e]
    · exact ⟨rfl, rfl⟩
    · exact (State.raiseError_sameImage _ _).after rfl rfl
  case correctPass | rxCorrect | txCorrect => simp [writesImg, hs] at h
  case rxSettle | txSettle => exact s.deviceTurn_same.sameImage.trans (State.goTo_sameImage _ _)
  all_goals exact .refl s

/-- An engine step at a place that is no correction and no segment read leaves IMG (20_memory.md R47). -/
theorem engineStep_sameImage {s t : State} (h : writesImg s.seq = false) (he : engineStep s = .next t) :
    SameImage s t := by
  rcases engineStep_next he with ⟨-, -, rfl⟩ | ⟨-, u, i, v, -, -, -, -, -, same, rfl⟩
  · exact localStep_sameImage h
  · have hv : v.seq = s.seq := same.seq.trans s.enter_seq
    exact (s.enter_sameImage.trans same.sameImage).trans (resume_sameImage (hv ▸ h))

end Sys2Proof.Safety

/-! ### Instructions -/

namespace Sys2Proof.Machine

theorem openBody_sameImage (s : State) : SameImage s (openBody s) := by
  unfold openBody
  split_ifs
  · exact State.raiseError_sameImage _ s
  · exact State.goTo_sameImage _ s

theorem verifyBody_sameImage (s : State) : SameImage s (verifyBody s) := by
  unfold verifyBody
  split_ifs
  · exact State.goTo_sameImage _ s
  · exact (State.raiseError_sameImage _ _).after rfl rfl

theorem correctBody_sameImage (s : State) : SameImage s (correctBody s) := by
  unfold correctBody
  split_ifs
  · exact State.goTo_sameImage _ s
  · exact State.raiseError_sameImage _ s

theorem recvBody_sameImage (s : State) : SameImage s (recvBody s) := by
  unfold recvBody
  dsimp only
  split_ifs
  · exact ⟨rfl, rfl⟩
  · exact (State.raiseError_sameImage _ _).after rfl rfl

theorem sendBody_sameImage (s : State) : SameImage s (sendBody s) := by
  unfold sendBody
  dsimp only
  split_ifs
  · exact ⟨rfl, rfl⟩
  · exact (State.raiseError_sameImage _ _).after rfl rfl
  · exact (State.raiseError_sameImage _ _).after rfl rfl

theorem dispatch_sameImage {body : State → State} (h : ∀ u, SameImage u (body u)) (s : State) :
    SameImage s (dispatch body s) :=
  dispatch_induction (P := SameImage s) (fun _ => .refl s) fun _ => (h s.acknowledge).after rfl rfl

/-- No instruction writes IMG itself (20_memory.md R47): a command is only accepted, and a primitive touches only
the link. -/
theorem exec_sameImage {i : Instr} {s t : State} (h : exec i s = .next t) : SameImage s t := by
  cases i with
  | cmdOpen => cases h; exact dispatch_sameImage openBody_sameImage s
  | cmdClose => cases h; exact dispatch_sameImage (State.goTo_sameImage _) s
  | cmdVerify => cases h; exact dispatch_sameImage verifyBody_sameImage s
  | cmdCorrect => cases h; exact dispatch_sameImage correctBody_sameImage s
  | cmdRecv => cases h; exact dispatch_sameImage recvBody_sameImage s
  | cmdSend => cases h; exact dispatch_sameImage sendBody_sameImage s
  | quirk =>
    simp only [exec, execQuirk] at h
    split at h <;> cases h
    · split_ifs
      · exact echoTaken_sameImage _ _ s
      · exact .refl s
    all_goals exact .refl s
  | lkOpen | lkClose | lkRead | lkWrite | lkBreak | lkWaiting | lkFlushin | lkFlushout | ack =>
    exact (exec_link_same (by simp [Instr.port]) (by simp) h).sameImage

end Sys2Proof.Machine
end

section
/-! What a correction and a segment read write: O58. -/

namespace Sys2Proof.Machine

/-- A run of ascending writes leaves the offsets before and after it. -/
theorem Memory.lookup_writeBytes_outside {m : Memory} {a k : Nat} {bs : List Byte}
    (h : k < a ∨ a + bs.length ≤ k) : (Memory.writeBytes m a bs).lookup k = m.lookup k := by
  induction bs generalizing m a with
  | nil => rfl
  | cons b bs ih =>
    rw [List.length_cons] at h
    rw [Memory.writeBytes, ih (by omega), Memory.lookup_write_other m b (by omega)]

@[simp] theorem storeSegment_epoch (b : Block) (r : List Byte) (s : State) :
    (storeSegment b r s).epoch = s.epoch := by simp [storeSegment]

/-- The storing of a segment leaves every offset but the |r| from RXCNT on (42_receive.md R123, R124). -/
theorem imgByte_storeSegment_outside {b : Block} {r : List Byte} {s : State} {a : Nat}
    (h : a < s.rxcnt.toNat ∨ s.rxcnt.toNat + r.length ≤ a) :
    (storeSegment b r s).imgByte a = s.imgByte a := by
  simp [State.imgByte, Memory.lookup_writeBytes_outside h]

/-- CorrectPass leaves every byte that is not the checkbyte of a region (41_checksum.md R104). -/
theorem State.imgByte_correctPass_of_ne {s : State} {a : Nat} (h : ∀ r, a ≠ ckOff r) :
    s.correctPass.imgByte a = s.imgByte a := by
  simp [State.correctPass, State.imgByte_correctRegion, h]

end Sys2Proof.Machine

namespace Sys2Proof.Safety

open Sys2Proof.Machine

theorem isCheckbyte_eq_false {a : Nat} : isCheckbyte a = false ↔ ∀ r, a ≠ ckOff r := by
  constructor
  · intro h r
    simp only [isCheckbyte, Bool.or_eq_false_iff, beq_eq_false_iff_ne] at h
    obtain ⟨⟨h₁, h₂⟩, h₃⟩ := h
    cases r with
    | one => exact h₁
    | two => exact h₂
    | three => exact h₃
  · intro h
    simp [isCheckbyte, h]

/-- At the three places of a correction the step makes of IMG what CorrectPass does (41_checksum.md R106,
42_receive.md R126, 43_send.md R142). -/
theorem engineStep_correction {s t : State}
    (hs : s.seq = .correctPass ∨ s.seq = .rxCorrect ∨ s.seq = .txCorrect) (h : engineStep s = .next t) :
    SameImage s.correctPass t := by
  have ho : s.offsetsInside = true := by rcases hs with hs | hs | hs <;> simp only [State.offsetsInside, hs]
  have hr : s.enter.request = none := by
    rcases hs with hs | hs | hs <;> simp only [State.request, s.enter_seq, hs]
  rw [engineStep_local ho hr, Host.Outcome.next.injEq] at h
  subst h
  rcases hs with hs | hs | hs <;> simp only [localStep, hs]
  · exact State.finish_sameImage s.correctPass
  · exact State.goTo_sameImage _ s.correctPass
  · exact State.goTo_sameImage _ s.correctPass

/-- The engine step of a segment read: an abort, or at most SEGLEN[b] bytes stored from RXCNT on (42_receive.md
R123, R124). -/
theorem engineStep_rxRead {s t : State} {b : Block} (hs : s.seq = .rxRead b) (h : engineStep s = .next t) :
    ∃ v, SameRegisters s.enter v ∧ (t = v.raiseError .linkUnavailable ∨
      ∃ r, r.length ≤ segLen b ∧ t = afterSegment b (storeSegment b r v)) := by
  have hreq := request_rxRead (s.enter_seq.trans hs)
  rcases engineStep_next h with ⟨-, hr, -⟩ | ⟨-, u, i, v, hu, hd, -, -, hv, same, rfl⟩
  · rw [hreq] at hr
    cases hr
  · rw [hreq] at hu
    cases hu
    cases hd
    refine ⟨v, same, ?_⟩
    rcases exec_lkRead_answer hv with ha | ⟨r, ha, hle⟩
    · exact .inl (State.resume_failed ha)
    · have hp : v.proceed = afterSegment b (storeSegment b v.lkres.bytesOf v) := by
        simp only [State.proceed, same.seq, s.enter_seq, hs]
      rw [State.resume_returned (by simp [ha]) (by simp [ha]), hp, ha]
      exact .inr ⟨r, hle, rfl⟩

/-- The read of segment b leaves every offset but the SEGLEN[b] from RXCNT on (20_memory.md R47). -/
theorem imgByte_rxRead_outside {s t : State} {b : Block} {a : Nat} (hs : s.seq = .rxRead b)
    (h : engineStep s = .next t) (ha : a < s.rxcnt.toNat ∨ s.rxcnt.toNat + segLen b ≤ a) :
    t.imgByte a = s.imgByte a := by
  obtain ⟨v, same, ht⟩ := engineStep_rxRead hs h
  have hv : SameImage s v := s.enter_sameImage.trans same.sameImage
  have hx : v.rxcnt = s.rxcnt := same.rxcnt.trans s.enter_rxcnt
  rcases ht with rfl | ⟨r, hr, rfl⟩
  · rw [(hv.trans (State.raiseError_sameImage _ v)).imgByte]
  · rw [(afterSegment_sameImage b _).imgByte, imgByte_storeSegment_outside (by rw [hx]; omega), hv.imgByte]

/-- Settles O58: instructions and places without a memory write by the frame of IMG, the others by what they
write. -/
theorem engineWritesImgOnlyWhereAllowed : Obligations.EngineWritesImgOnlyWhereAllowed := by
  refine ⟨fun i s t h => (exec_sameImage h).img, fun s t h => ⟨fun hw => ?_, fun hs a ha => ?_, fun b hs a ha => ?_⟩⟩
  · exact (engineStep_sameImage hw h).img
  · rw [(engineStep_correction hs h).imgByte]
    exact State.imgByte_correctPass_of_ne (isCheckbyte_eq_false.1 ha)
  · exact imgByte_rxRead_outside hs h ha

end Sys2Proof.Safety
end

section
/-! O55: what CorrectPass establishes, and that a SEND keeps it up to its end. -/

namespace Sys2Proof.Machine

/-! ### The image after CorrectPass -/

/-- Correcting a region makes it match: its checkbyte is none of the bytes summed (41_checksum.md R101, R104). -/
theorem State.correctRegion_matches (r : Region) (s : State) : (s.correctRegion r).regionMatches r = true := by
  have hpos : 0 < ckOff r := by cases r <;> decide
  have hsum : (s.correctRegion r).computed r = s.computed r := State.computed_congr fun k _ hk => by
    rw [State.imgByte_correctRegion, if_neg (by omega)]
  simp [State.regionMatches, State.stored, hsum, State.imgByte_correctRegion]

/-- Correcting a later region writes behind an earlier one (R101). -/
theorem State.correctRegion_matches_earlier {q r : Region} (h : ckOff q < ckOff r) (s : State) :
    (s.correctRegion r).regionMatches q = s.regionMatches q := by
  have hsum : (s.correctRegion r).computed q = s.computed q := State.computed_congr fun k _ hk => by
    rw [State.imgByte_correctRegion, if_neg (by omega)]
  simp [State.regionMatches, State.stored, hsum, State.imgByte_correctRegion, h.ne]

/-- After CorrectPass the image is consistent (R108 (a)). -/
theorem State.correctPass_verifyPass (s : State) : s.correctPass.verifyPass = true := by
  have h₁₂ : ckOff .one < ckOff .two := by decide
  have h₁₃ : ckOff .one < ckOff .three := by decide
  have h₂₃ : ckOff .two < ckOff .three := by decide
  simp [State.verifyPass, State.correctPass, State.correctRegion_matches,
    State.correctRegion_matches_earlier h₁₂, State.correctRegion_matches_earlier h₁₃,
    State.correctRegion_matches_earlier h₂₃]

/-! ### The places that hold a consistent image -/

/-- The places of a SEND after its CorrectPass, and the LK.CLOSE that completes either transfer (43_send.md R142,
42_receive.md R126). -/
def SeqPos.sendsImage : SeqPos → Bool
  | .txFlushIn | .txFlushOut | .txWrite _ _ | .txBreak _ | .txWaiting _ | .txEcho _ _ => true
  | .txSettle _ | .txAckWaiting _ | .txAckRead _ _ | .txAck _ => true
  | .txAckEchoWaiting _ | .txAckEchoRead _ _ | .completing => true
  | .idle | .openLink | .closeLink | .verifyPass | .correctPass | .txCorrect | .aborting => false
  | .rxFlushIn | .rxFlushOut | .rxRead _ | .rxSettle _ | .rxAck _ | .rxEcho _ | .rxCorrect => false

/-- None of these places writes IMG. -/
theorem writesImg_of_sendsImage {p : SeqPos} : p.sendsImage = true → Safety.writesImg p = false := by
  cases p <;> simp [SeqPos.sendsImage, Safety.writesImg]

/-- An error ends the command or leads to the abort's LK.CLOSE (60_exceptions.md R181, R182). -/
@[simp] theorem State.raiseError_sendsImage (e : ErrCode) (s : State) :
    (s.raiseError e).seq.sendsImage = false := by
  unfold State.raiseError
  split_ifs <;> rfl

/-- A segment read leads to no place of a SEND, and to its completion only through the correction. -/
theorem afterSegment_sendsImage (b : Block) (s : State) : (afterSegment b s).seq.sendsImage = false := by
  cases b with
  | one | two => rfl
  | three =>
    rw [afterSegment, checkLength]
    dsimp only
    split_ifs
    · rfl
    · exact State.raiseError_sendsImage _ _

/-- The pseudocode comes to such a place only from another one, unless by a correction. -/
theorem proceed_sendsImage {s : State} (h : s.proceed.seq.sendsImage = true) : s.seq.sendsImage = true := by
  cases hs : s.seq <;> simp only [State.proceed, hs] at h
  case rxRead b => rw [afterSegment_sendsImage] at h; cases h
  case openLink | closeLink | aborting | rxFlushIn | rxFlushOut | rxAck | rxEcho => cases h
  case idle | verifyPass | correctPass | rxSettle | rxCorrect | txCorrect => exact h
  all_goals rfl

theorem resume_sendsImage {s : State} (h : s.resume.seq.sendsImage = true) : s.seq.sendsImage = true := by
  rcases s.resume_cases with ⟨-, e⟩ | ⟨-, e⟩ | ⟨-, -, e⟩ <;> rw [e] at h
  · simp at h
  · exact h
  · exact proceed_sendsImage h

theorem localStep_sendsImage {s : State} (h : (localStep s).seq.sendsImage = true) :
    s.seq.sendsImage = true ∨ s.seq = .rxCorrect ∨ s.seq = .txCorrect := by
  cases hs : s.seq <;> simp only [localStep, hs] at h
  case rxCorrect => exact .inr (.inl rfl)
  case txCorrect => exact .inr (.inr rfl)
  case verifyPass =>
    obtain ⟨acc, e | e⟩ := verifyStep_cases s <;> rw [e] at h
    · cases h
    · simp at h
  case correctPass | rxSettle => cases h
  case txSettle => exact .inl rfl
  all_goals exact .inl h

/-- An engine step comes to such a place from another one or by the CorrectPass of a transfer (43_send.md R142,
42_receive.md R126). -/
theorem engineStep_sendsImage {s t : State} (he : engineStep s = .next t) (h : t.seq.sendsImage = true) :
    s.seq.sendsImage = true ∨ s.seq = .rxCorrect ∨ s.seq = .txCorrect := by
  rcases engineStep_next he with ⟨-, -, rfl⟩ | ⟨-, u, i, v, -, -, -, -, -, same, rfl⟩
  · exact localStep_sendsImage h
  · rw [← s.enter_seq, ← same.seq]
    exact .inl (resume_sendsImage h)

/-- No byte taken by an idle engine leads to such a place at once: a SEND begins with its correction. -/
theorem commandBody_sendsImage {s : State} (c : Byte) : (commandBody c s).seq.sendsImage = false := by
  refine commandBody_induction (P := fun t => t.seq.sendsImage = false) c ?_ rfl (fun _ => ?_) ?_ ?_ ?_ ?_
  · unfold openBody
    split_ifs
    · exact State.raiseError_sendsImage _ _
    · rfl
  · unfold verifyBody
    split_ifs
    · rfl
    · exact State.raiseError_sendsImage _ _
  · unfold correctBody
    split_ifs
    · rfl
    · exact State.raiseError_sendsImage _ _
  · unfold recvBody
    dsimp only
    split_ifs
    · rfl
    · exact State.raiseError_sendsImage _ _
  · unfold sendBody
    dsimp only
    split_ifs
    · rfl
    · exact State.raiseError_sendsImage _ _
    · exact State.raiseError_sendsImage _ _
  · simp

end Sys2Proof.Machine

namespace Sys2Proof.Safety

open Sys2Proof.Machine

theorem sendsConsistent_iff {s : State} :
    sendsConsistent s ↔ (s.seq.sendsImage = true → s.verifyPass = true) := by
  unfold sendsConsistent
  cases s.seq <;> simp [SeqPos.sendsImage]

/-- The property looks at the place and at IMG. -/
theorem sendsConsistent_of_same {s t : State} (h : sendsConsistent s) (hs : t.seq = s.seq)
    (same : SameImage s t) : sendsConsistent t := by
  rw [sendsConsistent_iff] at h ⊢
  rwa [hs, same.verifyPass]

theorem sendsConsistent_idle {s : State} (h : s.busy = false) : sendsConsistent s := by
  simp [sendsConsistent, busy_eq_false.1 h]

/-- The CorrectPass of a transfer makes the image consistent, and no later step of the transfer writes it. -/
theorem engineStep_sendsConsistent {s t : State} (h : sendsConsistent s) (he : engineStep s = .next t) :
    sendsConsistent t := by
  refine sendsConsistent_iff.2 fun ht => ?_
  rcases engineStep_sendsImage he ht with hs | hs
  · rw [(engineStep_sameImage (writesImg_of_sendsImage hs) he).verifyPass]
    exact sendsConsistent_iff.1 h hs
  · rw [(engineStep_correction (.inr hs) he).verifyPass]
    exact s.correctPass_verifyPass

/-- Settles O55, by the cases of a step: the engine keeps the image it has corrected, and the host can write IMG
only while no command runs. -/
theorem sendTransmitsAConsistentImage : Obligations.SendTransmitsAConsistentImage := by
  intro s t h hstep
  cases step_cases hstep with
  | engine q _ he =>
    exact engineStep_sendsConsistent (s := { s with inputs := q }) (sendsConsistent_of_same h rfl ⟨rfl, rfl⟩) he
  | command c i rest =>
    refine dispatch_induction (fun _ => sendsConsistent_of_same h rfl ⟨rfl, rfl⟩) fun _ => ?_
    exact sendsConsistent_iff.2 fun ht => by simp [commandBody_sendsImage] at ht
  | request i rest hb hp he =>
    have same := exec_request_same (s := { s with inputs := rest }) hb hp he
    exact sendsConsistent_idle (busy_eq_false.2 (same.seq.trans (busy_eq_false.1 hb)))
  | writeImg _ _ _ hb | writeLen _ _ hb => exact sendsConsistent_idle hb
  | quiet => exact sendsConsistent_of_same h rfl ⟨rfl, rfl⟩
  | reset => exact sendsConsistent_idle rfl

end Sys2Proof.Safety
end

section
/-! The code spaces of 30_encoding.md: O1, O2, O3, O4. -/

namespace Sys2Proof

/-- What the encoder writes is decoded to the same instruction, whatever its operand (30_encoding.md R60). -/
theorem decode_encode (i : Instr) : decode (encode i) = .ok i := by
  cases i with
  | cmdOpen | cmdClose | cmdVerify | cmdCorrect | cmdRecv | cmdSend => rfl
  | lkOpen | lkClose | lkRead | lkWrite | lkBreak | lkWaiting | lkFlushin | lkFlushout => rfl
  | ack | quirk => rfl

theorem encode_of_decodeCmd8 {c : Byte} {i : Instr} (h : decodeCmd8 c = .ok i) : encode i = .cmd8 c := by
  unfold decodeCmd8 at h
  split_ifs at h with hc hc hc hc hc hc <;> cases h <;> rw [hc] <;> rfl

/-- Every other byte than the six is illegal (30_encoding.md R63). -/
theorem decodeCmd8_illegal_iff {c : Byte} : decodeCmd8 c = .error .illegalCommand ↔
    c ∉ [0x01#8, 0x02#8, 0x10#8, 0x11#8, 0x20#8, 0x21#8] := by
  unfold decodeCmd8
  split_ifs <;> simp [*]

/-- The values of an illegal byte: the 256 of a byte without the six codes. -/
theorem toFinset_illegalCommands :
    ((List.range 256).filter fun c => decode (.cmd8 (BitVec.ofNat 8 c)) = .error .illegalCommand).toFinset =
      Finset.range 256 \ {0x01, 0x02, 0x10, 0x11, 0x20, 0x21} := by
  ext c
  simp only [List.toFinset_filter, List.toFinset_range, Finset.mem_filter, Finset.mem_range, Finset.mem_sdiff,
    decide_eq_true_eq, decode, decodeCmd8_illegal_iff]
  refine and_congr_right fun hc => not_congr ?_
  simp [← BitVec.toNat_inj, Nat.mod_eq_of_lt hc]

/-- A request without operand is decoded only where there is none (30_encoding.md R64). -/
theorem encode_of_bareRequest {i j : Instr} {code : BitVec 4} {operand : LkOperand}
    (h : bareRequest j operand = .ok i) (hj : encode j = .lkReq code .none) :
    encode i = .lkReq code operand := by
  cases operand with
  | none => cases h; exact hj
  | size | data | duration => cases h

theorem encode_of_decodeLkReq {code : BitVec 4} {operand : LkOperand} {i : Instr}
    (h : decodeLkReq code operand = .ok i) : encode i = .lkReq code operand := by
  unfold decodeLkReq at h
  split_ifs at h with _ hc hc hc hc hc hc hc hc
  · exact encode_of_bareRequest h (by rw [hc]; rfl)
  · exact encode_of_bareRequest h (by rw [hc]; rfl)
  · cases operand <;> cases h
    rw [hc]; rfl
  · cases operand <;> cases h
    rw [hc]; rfl
  · cases operand <;> cases h
    rw [hc]; rfl
  · exact encode_of_bareRequest h (by rw [hc]; rfl)
  · exact encode_of_bareRequest h (by rw [hc]; rfl)
  · exact encode_of_bareRequest h (by rw [hc]; rfl)

theorem encode_of_decodeSymbol {bytes : List Byte} {i : Instr} (h : decodeSymbol bytes = .ok i) :
    encode i = .symbol bytes := by
  unfold decodeSymbol at h
  split_ifs at h with hb hb <;> cases h <;> rw [hb] <;> rfl

/-- The decoder reads exactly what the encoder writes: no part of a unit is ignored (30_encoding.md R61, R64,
R68). -/
theorem decode_eq_ok_iff {u : CodeUnit} {i : Instr} : decode u = .ok i ↔ encode i = u := by
  refine ⟨fun h => ?_, fun h => h ▸ decode_encode i⟩
  cases u with
  | cmd8 c => exact encode_of_decodeCmd8 h
  | lkReq code operand => exact encode_of_decodeLkReq h
  | symbol bytes => exact encode_of_decodeSymbol h

end Sys2Proof

namespace Sys2Proof.Safety

open Sys2Proof.Machine

/-- Settles O1: the decoder is the encoder read backwards, and keeps each port to its own instructions. -/
theorem decodeAndEncodeAreInverse : Obligations.DecodeAndEncodeAreInverse :=
  ⟨fun i _ => decode_encode i, fun _ _ h => ⟨decode_eq_ok_iff.1 h, (decode_port h).symm⟩⟩

/-- Settles O2: a byte decodes to i when i is encoded as that byte; the rest are counted. -/
theorem sixCommandBytesAndNoOthers : Obligations.SixCommandBytesAndNoOthers := by
  refine ⟨fun c i => ?_, ?_⟩
  · rw [decode_eq_ok_iff]
    cases i with
    | cmdOpen | cmdClose | cmdVerify | cmdCorrect | cmdRecv | cmdSend => simp [encode, eq_comm]
    | lkOpen | lkClose | lkRead | lkWrite | lkBreak | lkWaiting | lkFlushin | lkFlushout => simp [encode]
    | ack | quirk => simp [encode]
  · rw [← List.toFinset_card_of_nodup (List.nodup_range.filter _), toFinset_illegalCommands,
      Finset.card_sdiff_of_subset (by decide), Finset.card_range]
    rfl

/-- Settles O3: each of the sixteen words is run through the decoder. -/
theorem tableWordsDecode : Obligations.TableWordsDecode :=
  ⟨rfl, rfl, rfl, rfl, rfl, rfl, rfl, rfl, rfl, rfl, rfl, rfl, rfl, rfl, rfl, rfl⟩

/-- Settles O4: the step takes the unit from the queue, and where it is presented it is run. -/
theorem stepRunsThePresentedInstruction : Obligations.StepRunsThePresentedInstruction := by
  intro s u i rest hi hd _ hp
  rw [step_input hi]
  exact presentUnit_decoded hd hp

end Sys2Proof.Safety
end

section
/-! O32: the quirk pattern away from an echo read. -/

namespace Sys2Proof.Safety

open Sys2Proof.Machine

/-- Settles O32, by the place: only an echo read of at least three bytes can return the pattern. -/
theorem quirkPatternOutsideAnEchoReadDoesNothing : Obligations.QuirkPatternOutsideAnEchoReadDoesNothing := by
  intro s h
  cases hs : s.seq <;> simp only [exec, execQuirk, hs]
  case txEcho b n =>
    rw [if_neg (Nat.not_le.2 (h b n hs))]

end Sys2Proof.Safety
end

section
/-! O53: no step faults, and the engine always has a next state. -/

namespace Sys2Proof.Machine

/-- An instruction is answered or refused: a fault is the sequencer's alone (30_encoding.md R70). -/
theorem exec_ne_fault (i : Instr) (s : State) (f : Fault) : exec i s ≠ .fault f := by
  have hopen (act : State → State) : whenOpen act s ≠ .fault f := by
    unfold whenOpen
    split_ifs <;> simp
  cases i with
  | cmdOpen | cmdClose | cmdVerify | cmdCorrect | cmdRecv | cmdSend | lkOpen | lkClose => nofun
  | lkRead | lkWrite | lkBreak | lkWaiting | lkFlushin | lkFlushout | ack => exact hopen _
  | quirk =>
    simp only [exec, execQuirk]
    split <;> simp

theorem runUnit_ne_fault (u : CodeUnit) (s : State) (f : Fault) : runUnit u s ≠ .fault f := by
  unfold runUnit
  split
  · exact exec_ne_fault _ s f
  all_goals simp

theorem presentUnit_ne_fault (u : CodeUnit) (s : State) (f : Fault) : presentUnit u s ≠ .fault f := by
  cases u with
  | cmd8 c => rw [presentUnit_cmd8]; simp
  | lkReq code operand | symbol bytes =>
    simp only [presentUnit]
    split_ifs
    · simp
    · exact runUnit_ne_fault _ s f

theorem hostImg_ne_fault (a : Nat) (act : State → State) (s : State) (f : Fault) :
    hostImg a act s ≠ .fault f := by
  unfold hostImg
  split_ifs <;> simp

theorem csrRead_ne_fault (n : Nat) (s : State) (f : Fault) : csrRead n s ≠ .fault f := by
  unfold csrRead
  split
  · simp
  · split_ifs <;> simp

theorem csrWrite_ne_fault (n : Nat) (v : BitVec 16) (s : State) (f : Fault) : csrWrite n v s ≠ .fault f := by
  unfold csrWrite
  split_ifs
  · exact presentUnit_ne_fault _ s f
  all_goals simp

/-- The engine faults only before an access beyond the image (30_encoding.md R70; log 26). -/
theorem engineStep_fault {s : State} {f : Fault} (h : engineStep s = .fault f) : s.offsetsInside = false := by
  rcases engineStep_cases s with ⟨ho, -⟩ | ⟨-, -, e⟩ | ⟨-, u, i, -, -, e⟩
  · exact ho
  · rw [e] at h
    cases h
  · rw [e] at h
    cases hx : exec i s.enter with
    | next t => rw [hx] at h; cases h
    | refused r => rw [hx] at h; cases h
    | fault g => exact absurd hx (exec_ne_fault i _ g)

/-- A step that faults is an engine step: no outside event does. -/
theorem step_fault {s : State} {f : Fault} (h : step s = .fault f) :
    ∃ q, engineStep { s with inputs := q } = .fault f := by
  cases hi : s.inputs with
  | nil => exact ⟨s.inputs, by rw [← step_engine hi]; exact h⟩
  | cons i rest =>
    rw [step_input hi] at h
    cases i with
    | unit u => exact absurd h (presentUnit_ne_fault u _ f)
    | csrWrite n v => exact absurd h (csrWrite_ne_fault n v _ f)
    | csrRead n => exact absurd h (csrRead_ne_fault n _ f)
    | imgWrite a v | imgRead a =>
      simp only [takeInput, imgWrite, imgRead] at h
      exact absurd h (hostImg_ne_fault a _ _ f)
    | arrive bs | reset => cases h
    | turn => exact ⟨rest, h⟩
    | poll =>
      simp only [takeInput, pollStatus] at h
      split_ifs at h
      exact ⟨.poll :: rest, h⟩

end Sys2Proof.Machine

namespace Sys2Proof.Safety

open Sys2Proof.Machine

/-- Every offset that the engine forms is inside the image (30_encoding.md R70). -/
theorem Inv.offsetsInside {s : State} (h : Inv s) : s.offsetsInside = true := by
  have hp := h.place
  cases hs : s.seq <;> simp only [State.offsetsInside, hs] <;> simp only [placeOk, hs] at hp
  case rxRead b =>
    obtain ⟨-, -, -, ⟨hr, -⟩, -⟩ := hp
    have := segBase_add_segLen b
    exact decide_eq_true (by omega)
  case txWrite b i =>
    obtain ⟨hi, -⟩ := hp
    have := segBase_add_segLen b
    exact decide_eq_true (by omega)

/-- The unit that a place presents is never refused: LK.OPEN and LK.CLOSE need no open link (40_link.md R81, R82),
and the places of the others hold it (10_state.md R27). -/
theorem Inv.exec_answers {s : State} {u : CodeUnit} {i : Instr} (h : Inv s) (hu : s.enter.request = some u)
    (hd : decode u = .ok i) (hp : i.port ≠ .cmd) : ∃ t, exec i s.enter = .next t := by
  cases ht : s.seq.inTransfer with
  | true =>
    obtain ⟨-, hl⟩ := placeOk_holdsLink h.place ht
    exact exec_link_open hp (by rw [State.enter_linkOpen, hl])
  | false =>
    cases hs : s.seq <;> simp only [hs, SeqPos.inTransfer, reduceCtorEq] at ht <;>
      simp only [State.request, State.enter_seq, hs, Option.some.injEq, reduceCtorEq] at hu
    case openLink | closeLink =>
      subst hu
      cases hd
      exact ⟨_, rfl⟩

/-- The engine goes on from every state of the invariant (60_exceptions.md R170, R178). -/
theorem Inv.engineStep_answers {s : State} (h : Inv s) : ∃ t, engineStep s = .next t := by
  rcases engineStep_cases s with ⟨ho, -⟩ | ⟨-, -, e⟩ | ⟨-, u, i, hu, hd, e⟩
  · rw [h.offsetsInside] at ho
    cases ho
  · exact ⟨_, e⟩
  · obtain ⟨j, hj, hp⟩ := decode_request hu
    rw [hd] at hj
    cases hj
    obtain ⟨t, ht⟩ := h.exec_answers hu hd hp
    exact ⟨t.resume, by rw [e, ht]; rfl⟩

/-- Settles O53: the engine's offsets are inside the image, and its units are answered. -/
theorem engineNeverStops : Obligations.EngineNeverStops := by
  refine fun s h => ⟨fun f hf => ?_, fun hi => ?_⟩
  · obtain ⟨q, hq⟩ := step_fault hf
    have ho : s.offsetsInside = false := engineStep_fault (s := { s with inputs := q }) hq
    rw [h.offsetsInside] at ho
    cases ho
  · rw [step_engine hi]
    exact h.engineStep_answers

end Sys2Proof.Safety
end

section
/-! One rule for each link primitive that the engine issues and that returns: the step up to the lines after it.
O45, O46. -/

namespace Sys2Proof.Machine

/-- The engine may step alone with the link open, and the device side's next move makes no primitive fail; it may
hold a write or a break (40_link.md R90, R91, 93_implementation_defined.md U6). -/
structure Unfailing (s : State) : Prop where
  inputs : s.inputs = []
  linkOpen : s.linkOpen = true
  notFailing : s.nextMove.answer = .fail → s.cfg.linkFail = false

theorem Unfailing.moveAnswer_ne_fail {s : State} (h : Unfailing s) (m : Bool) : s.moveAnswer m ≠ .fail := by
  intro hm
  obtain ⟨ha, hl⟩ := State.moveAnswer_fail.1 hm
  rw [h.notFailing ha] at hl
  cases hl

/-- A primitive that cannot be held returns. -/
theorem Unfailing.moveAnswer {s : State} (h : Unfailing s) : s.moveAnswer false = .ok := by
  cases hm : s.moveAnswer false with
  | ok => rfl
  | fail => exact absurd hm (h.moveAnswer_ne_fail false)
  | stall => exact absurd (State.moveAnswer_stall.1 hm).2 (by simp)

/-- A place before whose step no line of the pseudocode stands (log 1), and whose step forms no image offset. -/
def SeqPos.plain : SeqPos → Bool
  | .rxRead _ | .txWrite _ _ | .completing => false
  | _ => true

theorem State.enter_plain {s : State} (h : s.seq.plain = true) : s.enter = s := by
  refine Safety.State.enter_eq_self ?_ ?_ ?_ <;> intros <;> intro hs <;> simp [hs, SeqPos.plain] at h

theorem State.offsetsInside_plain {s : State} (h : s.seq.plain = true) : s.offsetsInside = true := by
  cases hs : s.seq <;> simp only [State.offsetsInside, hs] <;> simp [hs, SeqPos.plain] at h

/-- The place presents the unit `u`, on the state as it is. -/
structure Presents (s : State) (u : CodeUnit) : Prop where
  plain : s.seq.plain = true
  request : s.request = some u

/-- Which unit that is depends on the place. -/
theorem presents_at {s : State} {p : SeqPos} {u : CodeUnit} (hs : s.seq = p) (hp : p.plain = true)
    (hr : ({ s with seq := p } : State).request = some u) : Presents s u := by
  subst hs
  exact ⟨hp, hr⟩

/-- The step of a place that presents no unit. -/
theorem step_local {s : State} {p : SeqPos} (hi : s.inputs = []) (hs : s.seq = p) (hp : p.plain = true)
    (hr : ({ s with seq := p } : State).request = none) : step s = .next (localStep s) := by
  subst hs
  rw [step_engine hi, engineStep_local (State.offsetsInside_plain hp) (by rw [State.enter_plain hp]; exact hr)]

/-- The step of a primitive that cannot be held, with the device side's move before its effect (log 18). -/
theorem Unfailing.step {s : State} (h : Unfailing s) {u : CodeUnit} {i : Instr} {effect : State → State}
    (hp : Presents s u) (hd : decode u = .ok i)
    (hx : exec i s = whenOpen (State.linkStep false effect) s)
    (hf : (effect s.deviceTurn).lkres ≠ .failed) (hs : (effect s.deviceTurn).lkres ≠ .stalled) :
    Machine.step s = .next (effect s.deviceTurn).proceed := by
  have he := State.enter_plain hp.plain
  rw [step_engine h.inputs, engineStep_runs (State.offsetsInside_plain hp.plain) (he.symm ▸ hp.request) hd, he,
    hx, whenOpen_open h.linkOpen, andThen_next]
  simp only [State.linkStep, h.moveAnswer]
  rw [State.resume_returned hf hs]

/-- LK.READ(n) answers and removes the first n bytes (40_link.md R83). -/
theorem Unfailing.read {s : State} (h : Unfailing s) {n : Nat} (hp : Presents s (.lkReq 0x3#4 (.size n))) :
    Machine.step s = .next (s.deviceTurn.takeBytes n).proceed :=
  h.step hp (i := .lkRead n) rfl rfl (by simp) (by simp)

/-- LK.WAITING answers the length of RXQ (40_link.md R86). -/
theorem Unfailing.waiting {s : State} (h : Unfailing s) (hp : Presents s (.lkReq 0x6#4 .none)) :
    Machine.step s = .next s.deviceTurn.countWaiting.proceed :=
  h.step hp (i := .lkWaiting) rfl rfl (by simp) (by simp)

/-- LK.FLUSHIN empties RXQ (40_link.md R87). -/
theorem Unfailing.flushIn {s : State} (h : Unfailing s) (hp : Presents s (.lkReq 0x7#4 .none)) :
    Machine.step s = .next s.deviceTurn.dropInput.proceed :=
  h.step hp (i := .lkFlushin) rfl rfl (by simp) (by simp)

/-- LK.FLUSHOUT changes nothing (40_link.md R88). -/
theorem Unfailing.flushOut {s : State} (h : Unfailing s) (hp : Presents s (.lkReq 0x8#4 .none)) :
    Machine.step s = .next (s.deviceTurn.answer .done).proceed :=
  h.step hp (i := .lkFlushout) rfl rfl (by simp) (by simp)

end Sys2Proof.Machine

namespace Sys2Proof.Safety

open Sys2Proof.Machine

theorem Returns.unfailing {s : State} (h : Returns s) : Unfailing s :=
  ⟨h.inputs, h.linkOpen, h.notFailing⟩

/-- ACK appends 0x06 to WIRE (30_encoding.md R67; log 13). -/
theorem Returns.ack {s : State} (h : Returns s) (hp : Presents s (.symbol [Config.ackByte])) :
    Machine.step s = .next (s.deviceTurn.putBytes [0x06#8]).proceed := by
  have he := State.enter_plain hp.plain
  rw [h.step (i := .ack) (he.symm ▸ hp.request) rfl (State.offsetsInside_plain hp.plain) rfl
    (fun _ => by simp) (fun _ => by simp), he]
  rfl

/-- LK.BREAK appends one break to WIRE (40_link.md R85). -/
theorem Returns.brk {s : State} (h : Returns s) (hp : Presents s (.lkReq 0x5#4 (.duration .tBreak))) :
    Machine.step s = .next (s.deviceTurn.putBreak .tBreak).proceed := by
  have he := State.enter_plain hp.plain
  rw [h.step (i := .lkBreak .tBreak) (he.symm ▸ hp.request) rfl (State.offsetsInside_plain hp.plain) rfl
    (fun _ => by simp) (fun _ => by simp), he]

/-- The lines before the write of byte i of block b (43_send.md R145): BLK and FSM at the first byte, then IDX and
TXB. -/
theorem enter_txWrite {s : State} {b : Block} {i : Nat} (hs : s.seq = .txWrite b i) :
    s.enter = { s with
      fsm := if i = 0 then segState b else s.fsm, blk := if i = 0 then blockCode b else s.blk
      idx := BitVec.ofNat 14 i, txb := s.imgByte (segBase b + i) } := by
  simp only [State.enter, hs]
  split_ifs
  · rfl
  · simp only [hs]

/-- The device side's turn does not depend on the registers of the engine. -/
theorem deviceTurn_entered (s : State) (f : Fsm) (k : BitVec 2) (i : BitVec 14) (x : Byte) :
    ({ s with fsm := f, blk := k, idx := i, txb := x } : State).deviceTurn =
      { s.deviceTurn with fsm := f, blk := k, idx := i, txb := x } := by
  cases hd : s.dev <;> simp [State.deviceTurn, State.dropMove, State.arrive, State.nextMove, hd]

/-- LK.WRITE of byte i of block b appends the byte that the lines before it have fetched (43_send.md R146). -/
theorem Returns.write {s : State} (h : Returns s) {b : Block} {i : Nat} (hs : s.seq = .txWrite b i)
    (hi : i < segLen b) :
    Machine.step s = .next (s.enter.deviceTurn.putBytes [s.enter.txb]).proceed := by
  have := segBase_add_segLen b
  refine h.step (i := .lkWrite [s.enter.txb]) (u := .lkReq 0x4#4 (.data [s.enter.txb])) ?_ rfl ?_ rfl
    (fun _ => by simp) (fun _ => by simp)
  · simp only [State.request, State.enter_seq, hs]
  · simp only [State.offsetsInside, hs]
    exact decide_eq_true (by omega)

end Sys2Proof.Safety

namespace Sys2Proof.Machine

/-- The end of a block's byte loop (43_send.md R153 to R155). -/
theorem blockDone_eq (b : Block) (s : State) :
    blockDone b s = s.goTo (if b = .three then .completing else .txSettle b) := by
  cases b <;> rfl

/-- The next byte, or the end of the block (43_send.md R145). -/
theorem continueBlock_eq (b : Block) (s : State) :
    continueBlock b s = s.goTo (if s.idx.toNat + 1 < segLen b then .txWrite b (s.idx.toNat + 1)
      else if b = .three then .completing else .txSettle b) := by
  unfold continueBlock
  rw [blockDone_eq]
  split_ifs <;> rfl

/-- RECOV[b] <- 1; there is no RECOV[3] (10_state.md R26). -/
theorem State.setRecov_eq (b : Block) (s : State) :
    s.setRecov b = { s with recov1 := s.recov1 || b == .one, recov2 := s.recov2 || b == .two } := by
  cases b with
  | one | two => simp [State.setRecov]
  | three =>
    change s = { s with recov1 := s.recov1 || false, recov2 := s.recov2 || false }
    simp only [Bool.or_false]

theorem echoMatches_iff {x : Byte} {e : List Byte} : echoMatches x e = true ↔ e = [x] := by
  simp [echoMatches]

theorem isQuirk_iff {x : Byte} {e : List Byte} :
    isQuirk x e = true ↔ x = 0xFF#8 ∧ e = Config.quirkEcho := by
  simp [isQuirk]

/-- Only block 3 is final (43_send.md R144). -/
theorem isFinal_iff {b : Block} : isFinal b = true ↔ b = .three := by
  cases b <;> simp [isFinal]

/-- The echo of the byte alone is a match (43_send.md R149). -/
theorem echoTaken_match (b : Block) {e : List Byte} {s : State} (he : e = [s.txb]) :
    echoTaken b e s = continueBlock b { s with echo := e } := by
  simp only [echoTaken, echoMatches_iff, if_pos he]

/-- Any other echo in the final block is fatal (43_send.md R150). -/
theorem echoTaken_fatal {e : List Byte} {s : State} (he : e ≠ [s.txb]) :
    echoTaken .three e s = (({ s with echo := e } : State).noteFatal .three e).raiseError .echoMismatchFatal := by
  simp only [echoTaken, echoMatches_iff, isFinal_iff, if_neg he, if_true]

/-- The quirk ends a block that is not final (43_send.md R151): three bytes are no match. -/
theorem echoTaken_quirk {b : Block} {e : List Byte} {s : State} (hb : b ≠ .three) (ht : s.txb = 0xFF#8)
    (he : e = Config.quirkEcho) :
    echoTaken b e s = blockDone b (({ s with echo := e } : State).noteQuirk b) := by
  have hm : e ≠ [s.txb] := by simp [he, Config.quirkEcho]
  simp only [echoTaken, echoMatches_iff, isFinal_iff, isQuirk_iff, if_neg hm, if_neg hb, if_pos (And.intro ht he)]

/-- Any other mismatch there is counted and passed over (43_send.md R152). -/
theorem echoTaken_mismatch {b : Block} {e : List Byte} {s : State} (hb : b ≠ .three) (he : e ≠ [s.txb])
    (hq : ¬(s.txb = 0xFF#8 ∧ e = Config.quirkEcho)) :
    echoTaken b e s = continueBlock b (({ s with echo := e } : State).noteMismatch b e) := by
  simp only [echoTaken, echoMatches_iff, isFinal_iff, isQuirk_iff, if_neg he, if_neg hb, if_neg hq]

end Sys2Proof.Machine

namespace Sys2Proof.Safety

open Sys2Proof.Machine

/-- The echo read takes the first n bytes of RXQ, and the decision on them ends the step (43_send.md R148). -/
theorem step_txEcho {s : State} (h : Unfailing s) {b : Block} {n : Nat} (hs : s.seq = .txEcho b n) :
    Machine.step s = .next (echoTaken b (s.deviceTurn.rxq.take n) (s.deviceTurn.takeBytes n)) := by
  rw [h.read (n := n) (presents_at hs rfl rfl)]
  simp only [State.proceed, State.takeBytes_seq, State.deviceTurn_seq, hs, State.takeBytes_lkres,
    LinkResult.bytesOf]

/-- Settles O45: LK.WAITING and LK.READ cannot be held, and the decision is one equation for each case. -/
theorem echoDecidesTheNextByte : Obligations.EchoDecidesTheNextByte := by
  intro s b q hi hl hf hq
  have h : Unfailing s := ⟨hi, hl, hf⟩
  have hturn : s.deviceTurn = { s.dropMove with rxq := q } := by rw [hq, State.deviceTurn_eq]
  refine ⟨fun hs => ?_, fun n e r hs he hr => ?_⟩
  · rw [h.waiting (presents_at hs rfl rfl)]
    simp [hturn, State.proceed, hs, State.countWaiting, State.goTo, LinkResult.countOf, oppReadSize]
  · have hstep : Machine.step s = .next (echoTaken b e (s.deviceTurn.takeBytes n)) := by
      rw [step_txEcho h hs, hturn, he]
    have hecho : ({ s.deviceTurn.takeBytes n with echo := e } : State) = r := by
      rw [hr, he, hturn]
      rfl
    have htxb : (s.deviceTurn.takeBytes n).txb = s.txb := by simp
    have hseq : r.seq = .txEcho b n := by simp [hr, hs]
    rw [hstep]
    refine ⟨fun hm => ?_, fun hm hb => ?_, fun hb ht hm => ?_, fun hb hm hn => ?_⟩
    · rw [echoTaken_match b (by rw [htxb, hm]), hecho, continueBlock_eq]
      simp [hr, State.goTo]
    · subst hb
      rw [echoTaken_fatal (by rw [htxb]; exact hm), hecho,
        State.raiseError_inTransfer _ (by rw [State.noteFatal_seq, hseq]; rfl)]
      simp [hr, State.noteFatal]
    · rw [echoTaken_quirk hb (by rw [htxb, ht]) hm, hecho, blockDone_eq, if_neg hb]
      simp [hr, State.noteQuirk, State.setRecov_eq, State.goTo]
    · rw [echoTaken_mismatch hb (by rw [htxb]; exact hm) (by rw [htxb]; exact hn), hecho, continueBlock_eq,
        if_neg hb]
      simp [hr, State.noteMismatch, State.goTo]

/-- Settles O46, place by place: the rule of the place's primitive or pass, then the lines after it. -/
theorem transferStepsForEveryDevice : Obligations.TransferStepsForEveryDevice := by
  intro s r q h hq hr
  have hturn : s.deviceTurn = r := by rw [hr, hq, State.deviceTurn_eq]
  have hrq : s.deviceTurn.rxq = q := by rw [State.deviceTurn_rxq, hq]
  subst hturn hrq
  have u := h.unfailing
  refine ⟨fun hs => ?_, fun hs => ?_, fun b hs => ?_, fun b hs => ?_, fun hs => ?_, fun hs => ?_, fun hs => ?_,
    fun hs => ?_, fun b i hs hi => ?_, fun b hs => ?_, fun b hs => ?_, fun b n hs => ?_, fun b hs => ?_,
    fun b hs => ?_, fun b n hs => ?_, fun hs => ?_⟩
  · rw [u.flushIn (presents_at hs rfl rfl)]
    simp [State.proceed, hs, State.goTo, State.dropInput]
  · rw [u.flushOut (presents_at hs rfl rfl)]
    simp [State.proceed, hs, State.goTo, State.answer]
  · rw [h.ack (presents_at hs rfl rfl)]
    simp [State.proceed, hs, State.goTo, State.putBytes]
  · rw [u.read (presents_at hs rfl rfl)]
    simp [State.proceed, hs, State.goTo, State.takeBytes, State.addLog, LinkResult.bytesOf]
  · rw [step_local h.inputs hs rfl rfl]
    simp [localStep, hs, State.goTo]
  · rw [step_local h.inputs hs rfl rfl]
    simp [localStep, hs, State.goTo]
  · rw [u.flushIn (presents_at hs rfl rfl)]
    simp [State.proceed, hs, State.goTo, State.dropInput]
  · rw [u.flushOut (presents_at hs rfl rfl)]
    simp [State.proceed, hs, State.goTo, State.answer]
  · rw [h.write hs hi]
    have hidx : (BitVec.ofNat 14 i).toNat = i := by
      rw [BitVec.toNat_ofNat, Nat.mod_eq_of_lt (hi.trans (segLen_lt b))]
    rw [enter_txWrite hs, deviceTurn_entered]
    cases b <;> simp [State.proceed, hs, State.goTo, State.putBytes, echoPlace, isFinal, hidx]
  · rw [h.brk (presents_at hs rfl rfl)]
    simp [State.proceed, hs, State.goTo, State.putBreak, echoPlace]
  · rw [u.waiting (presents_at hs rfl rfl)]
    simp [State.proceed, hs, State.goTo, State.countWaiting, LinkResult.countOf, oppReadSize, ackReadMin]
  · rw [u.read (presents_at hs rfl rfl)]
    simp [State.proceed, hs, State.goTo, State.takeBytes, State.addLog, LinkResult.bytesOf]
  · rw [h.ack (presents_at hs rfl rfl)]
    simp [State.proceed, hs, State.goTo, State.putBytes]
  · rw [u.waiting (presents_at hs rfl rfl)]
    simp [State.proceed, hs, State.goTo, State.countWaiting, LinkResult.countOf, oppReadSize, ackReadMin]
  · rw [u.read (presents_at hs rfl rfl)]
    simp [State.proceed, hs, State.goTo, State.takeBytes, State.addLog, LinkResult.bytesOf]
  · exact ⟨_, step_completing hs h.inputs h.linkOpen⟩

end Sys2Proof.Safety
end

section
/-! The link primitives as equations, for each of the device side's three answers: O22 to O28. -/

namespace Sys2Proof.Machine

/-! ### A primitive that needs an open link -/

/-- A primitive returns unless the device side makes it fail or holds it (40_link.md R91,
93_implementation_defined.md U6). -/
theorem State.moveAnswer_ok {mayStall : Bool} {s : State}
    (hf : s.nextMove.answer = .fail → s.cfg.linkFail = false)
    (hs : s.nextMove.answer = .stall → mayStall = false) : s.moveAnswer mayStall = .ok := by
  cases hm : s.moveAnswer mayStall with
  | ok => rfl
  | fail =>
    obtain ⟨ha, hl⟩ := State.moveAnswer_fail.1 hm
    rw [hf ha] at hl
    cases hl
  | stall =>
    obtain ⟨ha, hl⟩ := State.moveAnswer_stall.1 hm
    rw [hs ha] at hl
    cases hl

/-- A primitive that returns has its effect on what the device side's turn leaves (40_link.md R83 to R88). -/
theorem whenOpen_linkStep_returns {mayStall : Bool} {effect : State → State} {s : State}
    (hl : s.linkOpen = true) (hf : s.nextMove.answer = .fail → s.cfg.linkFail = false)
    (hs : s.nextMove.answer = .stall → mayStall = false) :
    whenOpen (State.linkStep mayStall effect) s =
      .next (effect { s.dropMove with rxq := enqueue s.cfg.wMax s.rxq s.nextMove.arrive }) := by
  rw [whenOpen_open hl, State.linkStep, State.moveAnswer_ok hf hs, State.deviceTurn_eq]

/-- A primitive that fails leaves the device side's turn and its answer (40_link.md R91; logs 22 and 36). -/
theorem whenOpen_linkStep_fails {mayStall : Bool} {effect : State → State} {s : State}
    (hl : s.linkOpen = true) (ha : s.nextMove.answer = .fail) (hf : s.cfg.linkFail = true) :
    whenOpen (State.linkStep mayStall effect) s =
      .next { s.dropMove with
        rxq := enqueue s.cfg.wMax s.rxq s.nextMove.arrive, lkres := .failed } := by
  rw [whenOpen_open hl, State.linkStep, State.moveAnswer_fail.2 ⟨ha, hf⟩, State.deviceTurn_eq]
  rfl

/-- So does a write or a break that is held (93_implementation_defined.md U6; logs 7 and 22). -/
theorem whenOpen_linkStep_held {effect : State → State} {s : State} (hl : s.linkOpen = true)
    (ha : s.nextMove.answer = .stall) :
    whenOpen (State.linkStep true effect) s =
      .next { s.dropMove with
        rxq := enqueue s.cfg.wMax s.rxq s.nextMove.arrive, lkres := .stalled } := by
  rw [whenOpen_open hl, State.linkStep, State.moveAnswer_stall.2 ⟨ha, rfl⟩, State.deviceTurn_eq]
  rfl

/-- Every primitive but LK.OPEN and LK.CLOSE is a link step that needs an open link (10_state.md R27). -/
theorem exec_eq_whenOpen_linkStep {i : Instr} (hp : i.port ≠ .cmd) (hq : i ≠ .quirk) (ho : i ≠ .lkOpen)
    (hc : i ≠ .lkClose) (s : State) :
    ∃ mayStall effect, exec i s = whenOpen (State.linkStep mayStall effect) s := by
  cases i with
  | cmdOpen | cmdClose | cmdVerify | cmdCorrect | cmdRecv | cmdSend => exact absurd rfl hp
  | quirk => exact absurd rfl hq
  | lkOpen => exact absurd rfl ho
  | lkClose => exact absurd rfl hc
  | lkRead | lkWrite | lkBreak | lkWaiting | lkFlushin | lkFlushout | ack => exact ⟨_, _, rfl⟩

/-! ### LK.OPEN and LK.CLOSE -/

/-- "Available" (40_link.md R81). -/
theorem State.openPort_available {s : State} (h : s.nextMove.answer = .ok) :
    s.openPort = { s.dropMove with
      linkOpen := true, rxq := enqueue s.cfg.wMax [] s.nextMove.arrive, lkres := .done } := by
  rw [State.openPort, h]

/-- "Not available" (40_link.md R81). -/
theorem State.openPort_fails {s : State} (h : s.nextMove.answer = .fail) :
    s.openPort = { s.dropMove with lkres := .failed } := by
  rw [State.openPort, h]
  rfl

/-- No answer yet (93_implementation_defined.md U6). -/
theorem State.openPort_held {s : State} (h : s.nextMove.answer = .stall) :
    s.openPort = { s.dropMove with lkres := .stalled } := by
  rw [State.openPort, h]
  rfl

/-- Closing a closed link does nothing (40_link.md R82). -/
theorem State.closePort_closed {s : State} (h : s.linkOpen = false) :
    s.closePort = { s with lkres := .done } := by
  rw [State.closePort, if_neg (by simp [h])]
  rfl

/-- Closing an open link leaves RXQ undefined (40_link.md R82; log 6). -/
theorem State.closePort_open {s : State} (h : s.linkOpen = true) :
    s.closePort = { s with
      linkOpen := false, rxq := Config.undefinedRxq s.draws, draws := s.draws + 1, lkres := .done } := by
  rw [State.closePort, if_pos h]

/-! ### The device side's own appends -/

/-- Bytes that a finite W_MAX has room for are appended (40_link.md R90). -/
theorem enqueue_fits {wMax : Option Nat} {q bs : List Byte}
    (h : ∀ w, wMax = some w → q.length + bs.length ≤ w) : enqueue wMax q bs = q ++ bs := by
  cases wMax with
  | none => rfl
  | some w => exact if_pos (h w rfl)

/-- An append that a finite W_MAX has no room for is not made (U4; log 16). -/
theorem enqueue_full {wMax : Option Nat} {q bs : List Byte}
    (h : ∀ w, wMax = some w → w < q.length + bs.length) (hw : wMax ≠ none) : enqueue wMax q bs = q := by
  cases wMax with
  | none => exact absurd rfl hw
  | some w => exact if_neg (Nat.not_le.2 (h w rfl))

/-- Bytes arrive between two steps (40_link.md R90). -/
theorem step_arrive_open {s : State} {bs : List Byte} {rest : List Input} (h : s.inputs = .arrive bs :: rest)
    (hl : s.linkOpen = true) :
    step s = .next { s with inputs := rest, rxq := enqueue s.cfg.wMax s.rxq bs } := by
  rw [step_input h]
  exact congrArg Host.Outcome.next (if_pos hl)

/-- With the link closed there is no RXQ to append to (10_state.md R27). -/
theorem step_arrive_closed {s : State} {bs : List Byte} {rest : List Input} (h : s.inputs = .arrive bs :: rest)
    (hl : s.linkOpen = false) : step s = .next { s with inputs := rest } := by
  rw [step_input h]
  exact congrArg Host.Outcome.next (if_neg (c := s.linkOpen = true) (by simp [hl]))

end Sys2Proof.Machine

namespace Sys2Proof.Safety

open Sys2Proof.Machine

/-- Settles O22: LK.OPEN by the device side's answer. -/
theorem lkOpenTakesTheDeviceSidesAnswer : Obligations.LkOpenTakesTheDeviceSidesAnswer := fun _ =>
  ⟨fun h => congrArg Host.Outcome.next (State.openPort_available h),
    fun h => congrArg Host.Outcome.next (State.openPort_fails h)⟩

/-- Settles O23: LK.CLOSE by LINKOPEN. -/
theorem lkCloseReleasesAndIsIdempotent : Obligations.LkCloseReleasesAndIsIdempotent := fun _ =>
  ⟨fun h => congrArg Host.Outcome.next (State.closePort_closed h),
    fun h => ⟨_, congrArg Host.Outcome.next (State.closePort_open h)⟩⟩

/-- Settles O24: what is returned and what stays are the two parts of the queue at n. -/
theorem lkReadTakesTheFirstBytes : Obligations.LkReadTakesTheFirstBytes := by
  intro s n hl hf
  generalize hq : enqueue s.cfg.wMax s.rxq s.nextMove.arrive = q
  refine ⟨q.take n, q.drop n, ?_, List.take_append_drop n q, List.length_take, fun hr => ?_⟩
  · rw [← hq]
    exact whenOpen_linkStep_returns hl hf fun _ => rfl
  · rw [List.length_take] at hr
    exact List.drop_eq_nil_of_le (by omega)

/-- Settles O25: a write, ACK and a break return, and each appends its own to WIRE. -/
theorem lkWriteAckAndBreakAppendToWire : Obligations.LkWriteAckAndBreakAppendToWire := by
  intro s hl hs hf
  have returns (effect : State → State) := whenOpen_linkStep_returns (mayStall := true) (effect := effect) hl hf
    fun h => absurd h hs
  have hw : s.dropMove.wire = s.wire := State.dropMove_wire s
  rw [← hw]
  exact ⟨fun bs => returns (State.putBytes bs), returns (State.putBytes [Config.ackByte]),
    fun d => returns (State.putBreak d)⟩

/-- Settles O26: none of the three can be held, and each has its effect after the device side's turn. -/
theorem lkWaitingCountsAndFlushesDiscardInput : Obligations.LkWaitingCountsAndFlushesDiscardInput := by
  intro s hl hf
  have returns (effect : State → State) := whenOpen_linkStep_returns (mayStall := false) (effect := effect) hl hf
    fun _ => rfl
  exact ⟨returns State.countWaiting, returns State.dropInput, returns (State.answer .done)⟩

/-- Settles O27: an append between two steps by LINKOPEN and the room in RXQ; a Delay is the device side's turn. -/
theorem deviceSideOnlyAppendsToTheQueue : Obligations.DeviceSideOnlyAppendsToTheQueue := by
  refine ⟨fun s bs rest hi => ?_, fun s b hi => ⟨fun hs => ?_, fun hs => ?_⟩⟩
  · refine ⟨fun hl hw => ?_, fun hl hw hn => ?_, step_arrive_closed hi⟩
    · rw [step_arrive_open hi hl, enqueue_fits hw]
    · rw [step_arrive_open hi hl, enqueue_full hw hn]
  · rw [step_local hi hs rfl rfl]
    simp only [localStep, hs, State.delay, State.deviceTurn_eq, State.goTo]
  · rw [step_local hi hs rfl rfl]
    simp only [localStep, hs, State.delay, State.deviceTurn_eq, State.goTo]

/-- Settles O28: each of the seven is a link step, which ends with the device side's turn when it fails or is
held. -/
theorem failedPrimitiveHasNoEffect : Obligations.FailedPrimitiveHasNoEffect := by
  refine fun s n bs d hl => ⟨fun ha hf i hi => ?_, fun ha i hi => ?_⟩ <;>
    simp only [List.mem_cons, List.not_mem_nil, or_false] at hi
  · rcases hi with rfl | rfl | rfl | rfl | rfl | rfl | rfl <;> exact whenOpen_linkStep_fails hl ha hf
  · rcases hi with rfl | rfl | rfl <;> exact whenOpen_linkStep_held hl ha

end Sys2Proof.Safety
end

section
/-! A primitive of the engine that fails or is held: O40, O41. -/

namespace Sys2Proof.Machine

/-- The step at a place that presents `i`: what the primitive answers, then the lines after it (10_state.md R14). -/
theorem step_primitive {s v : State} {u : CodeUnit} {i : Instr} (hi : s.inputs = [])
    (ho : s.offsetsInside = true) (hu : s.enter.request = some u) (hd : decode u = .ok i)
    (hx : exec i s.enter = .next v) : step s = .next v.resume := by
  rw [step_engine hi, engineStep_runs ho hu hd, hx, andThen_next]

/-- The lines before a primitive do not touch the device side's queue and draws. -/
@[simp] theorem State.enter_nextMove (s : State) : s.enter.nextMove = s.nextMove := by
  simp [State.nextMove]

end Sys2Proof.Machine

namespace Sys2Proof.Safety

open Sys2Proof.Machine

/-- The place of a transfer presents a primitive that needs an open link unless it is LK.CLOSE (42_receive.md R127,
43_send.md R156). -/
theorem transfer_primitive {s : State} {u : CodeUnit} (ht : s.seq.inTransfer = true) (hu : s.request = some u)
    (hc : u ≠ .lkReq 0x2#4 .none) : ∃ i mayStall effect,
      decode u = .ok i ∧ exec i s = whenOpen (State.linkStep mayStall effect) s := by
  obtain ⟨i, hd, hp⟩ := decode_request hu
  have hq := request_not_quirk hu hd
  obtain ⟨ho, hcl⟩ : i ≠ .lkOpen ∧ i ≠ .lkClose := by
    rcases request_keeps_link hu hd with h | hs | hs | hs | hs
    · exact h
    · simp [hs, SeqPos.inTransfer] at ht
    · simp [hs, SeqPos.inTransfer] at ht
    all_goals
      simp only [State.request, hs, Option.some.injEq] at hu
      exact absurd hu.symm hc
  obtain ⟨mayStall, effect, hx⟩ := exec_eq_whenOpen_linkStep hp hq ho hcl s
  exact ⟨i, mayStall, effect, hd, hx⟩

/-- Settles O40: the primitive has changed nothing but the device side's queue and RXQ, and LinkUnavailable is
raised at a place of a transfer. -/
theorem linkFailureAbortsTheTransfer : Obligations.LinkFailureAbortsTheTransfer := by
  intro s u h hi ht hu hc hf ha
  obtain ⟨-, hl⟩ := placeOk_holdsLink h.place ht
  obtain ⟨i, mayStall, effect, hd, hx⟩ := transfer_primitive (by simpa using ht) hu hc
  rw [whenOpen_linkStep_fails (by simpa using hl) (by simpa using ha) (by simpa using hf)] at hx
  refine ⟨_, step_primitive hi h.offsetsInside hu hd hx, ?_⟩
  rw [State.resume_failed rfl, State.raiseError_inTransfer _ (by simpa using ht)]
  simp [hl, hi]

/-- At each of the five places a primitive is presented whose hold puts nothing on WIRE (log 22). -/
theorem Inv.presents_held {s : State} (h : Inv s) (ha : s.nextMove.answer = .stall)
    (hs : s.seq = .openLink ∨ (∃ b i, s.seq = .txWrite b i) ∨ (∃ b, s.seq = .txBreak b) ∨
      (∃ b, s.seq = .rxAck b) ∨ ∃ b, s.seq = .txAck b) :
    ∃ i, s.enter.request = some (encode i) ∧
      ∃ v, exec i s.enter = .next v ∧ v.lkres = .stalled ∧ v.wire = s.wire := by
  have hm : s.enter.nextMove.answer = .stall := by simpa using ha
  have held (effect : State → State) (ht : s.seq.inTransfer = true) :
      ∃ v, whenOpen (State.linkStep true effect) s.enter = .next v ∧ v.lkres = .stalled ∧ v.wire = s.wire := by
    obtain ⟨-, hl⟩ := placeOk_holdsLink h.place ht
    exact ⟨_, whenOpen_linkStep_held (by simpa using hl) hm, rfl, by simp⟩
  rcases hs with hs | ⟨b, k, hs⟩ | ⟨b, hs⟩ | ⟨b, hs⟩ | ⟨b, hs⟩
  · refine ⟨.lkOpen, ?_, s.enter.openPort, rfl, ?_, by simp⟩
    · simp only [State.request, State.enter_seq, hs, encode]
    · rw [State.openPort_held hm]
  · refine ⟨.lkWrite [s.enter.txb], ?_, held _ (by rw [hs]; rfl)⟩
    simp only [State.request, State.enter_seq, hs, encode]
  · refine ⟨.lkBreak .tBreak, ?_, held _ (by rw [hs]; rfl)⟩
    simp only [State.request, State.enter_seq, hs, encode]
  · refine ⟨.ack, ?_, held _ (by rw [hs]; rfl)⟩
    simp only [State.request, State.enter_seq, hs, encode]
  · refine ⟨.ack, ?_, held _ (by rw [hs]; rfl)⟩
    simp only [State.request, State.enter_seq, hs, encode]

/-- Settles O41: the held primitive has touched only the link, and the step ends with it. -/
theorem unreturnedPrimitiveHoldsTheEngine : Obligations.UnreturnedPrimitiveHoldsTheEngine := by
  intro s h hi ha hs
  obtain ⟨i, hu, v, hx, hr, hw⟩ := h.presents_held ha hs
  have hd := decode_encode i
  obtain ⟨j, hj, hp⟩ := decode_request hu
  obtain rfl : j = i := by rw [hd] at hj; cases hj; rfl
  have hq := request_not_quirk hu hd
  have same := exec_link_same hp hq hx
  have hlink := exec_link_unreturned hp hq hx (.inr hr)
  have hseq : v.seq = s.seq := same.seq.trans s.enter_seq
  have hstep := step_primitive hi h.offsetsInside hu hd hx
  rw [State.resume_stalled hr] at hstep
  refine ⟨v, hstep, hseq, ?_, hr, hw, same.log.trans s.enter_log, same.img.trans s.enter_img,
    same.err.trans s.enter_err, same.mmcnt.trans s.enter_mmcnt, hlink.trans s.enter_linkOpen⟩
  rw [busy_eq_true, hseq]
  rcases hs with hs | ⟨b, k, hs⟩ | ⟨b, hs⟩ | ⟨b, hs⟩ | ⟨b, hs⟩ <;> simp [hs]

end Sys2Proof.Safety
end

section
/-! OPEN and CLOSE, from acceptance to the end of the command: O10, O11. -/

namespace Sys2Proof.Machine

/-- A rejection of a command just taken changes ERR alone (60_exceptions.md R182). -/
theorem State.raiseError_acknowledge {s : State} (e : ErrCode) (h : s.seq = .idle) :
    s.acknowledge.raiseError e = { s with err := e } := by
  rw [State.raiseError_rejects e (by rw [State.acknowledge_seq, h]; rfl)]
  simp [State.acknowledge, h]

/-- The acceptance of a command touches no move of the device side. -/
theorem State.dropMove_accepted (p : SeqPos) (s : State) :
    (s.acknowledge.goTo p).dropMove = s.dropMove.acknowledge.goTo p := by
  cases hd : s.dev <;> simp only [State.dropMove, State.goTo_dev, State.acknowledge_dev, hd] <;> rfl

end Sys2Proof.Machine

namespace Sys2Proof.Safety

open Sys2Proof.Machine

/-- The LK.OPEN of OPEN (40_link.md R92). -/
theorem step_openLink {s : State} (hs : s.seq = .openLink) (hi : s.inputs = []) :
    Machine.step s = .next s.openPort.resume := by
  have he : s.enter = s := State.enter_plain (by rw [hs]; rfl)
  exact step_primitive (u := .lkReq 0x1#4 .none) (i := .lkOpen) hi (by simp only [State.offsetsInside, hs])
    (by simp only [he, State.request, hs]) rfl (by rw [he]; rfl)

/-- The LK.CLOSE of CLOSE (40_link.md R93), which cannot fail. -/
theorem step_closeLink {s : State} (hs : s.seq = .closeLink) (hi : s.inputs = []) :
    Machine.step s = .next s.closePort.finish := by
  have he : s.enter = s := State.enter_plain (by rw [hs]; rfl)
  rw [step_primitive (u := .lkReq 0x2#4 .none) (i := .lkClose) (v := s.closePort) hi
    (by simp only [State.offsetsInside, hs]) (by simp only [he, State.request, hs]) rfl (by rw [he]; rfl),
    State.resume_returned (by simp) (by simp)]
  simp only [State.proceed, State.closePort_seq, hs]

/-- Settles O10: the rejection on an open link, else the step at LK.OPEN by the device side's answer. -/
theorem openClaimsTheLinkOrRaises : Obligations.OpenClaimsTheLinkOrRaises := by
  intro s hb hi
  have hs : s.seq = .idle := busy_eq_false.1 hb
  have hexec : exec .cmdOpen s = .next (openBody s.acknowledge) :=
    congrArg Host.Outcome.next (dispatch_idle hb)
  rw [hexec, openBody, State.acknowledge_linkOpen]
  refine ⟨fun hl => ?_, fun hl => ⟨s.acknowledge.goTo .openLink, ?_, rfl, fun ha => ?_, fun ha => ?_⟩⟩
  · rw [if_pos hl, State.raiseError_acknowledge _ hs]
  · rw [if_neg (by simp [hl])]
  all_goals rw [step_openLink (s := s.acknowledge.goTo .openLink) rfl hi]
  · rw [State.openPort_available (s := s.acknowledge.goTo .openLink) ha, State.dropMove_accepted,
      State.resume_returned (by simp) (by simp)]
    simp [State.proceed, State.finish, State.goTo, State.acknowledge, State.nextMove, hs]
  · rw [State.openPort_fails (s := s.acknowledge.goTo .openLink) ha, State.dropMove_accepted,
      State.resume_failed rfl, State.raiseError_rejects _ rfl]
    simp [State.goTo, State.acknowledge, hs]

/-- Settles O11: the step at LK.CLOSE by LINKOPEN. -/
theorem closeReleasesTheLinkAndIsIdempotent : Obligations.CloseReleasesTheLinkAndIsIdempotent := by
  intro s hb hi
  have hs : s.seq = .idle := busy_eq_false.1 hb
  refine ⟨s.acknowledge.goTo .closeLink, _, congrArg Host.Outcome.next (dispatch_idle hb),
    step_closeLink rfl hi, rfl, fun hl => ?_, fun hl => ⟨Config.undefinedRxq s.draws, ?_⟩⟩
  · rw [State.closePort_closed (s := s.acknowledge.goTo .closeLink) hl]
    simp [State.finish, State.goTo, State.acknowledge, hs]
  · rw [State.closePort_open (s := s.acknowledge.goTo .closeLink) hl]
    simp [State.finish, State.goTo, State.acknowledge, hs]

end Sys2Proof.Safety
end

section
/-! VERIFY and CORRECT away from the link: O60. -/

namespace Sys2Proof.Machine

/-- The link, WIRE and the device side's queue and draws are the same. -/
structure SameLink (s t : State) : Prop where
  linkOpen : t.linkOpen = s.linkOpen
  rxq : t.rxq = s.rxq
  wire : t.wire = s.wire
  dev : t.dev = s.dev
  draws : t.draws = s.draws

theorem SameLink.refl (s : State) : SameLink s s := ⟨rfl, rfl, rfl, rfl, rfl⟩

theorem SameLink.trans {s t u : State} (h : SameLink s t) (g : SameLink t u) : SameLink s u :=
  ⟨g.linkOpen.trans h.linkOpen, g.rxq.trans h.rxq, g.wire.trans h.wire, g.dev.trans h.dev,
    g.draws.trans h.draws⟩

/-- A step that began with writes of other fields. -/
theorem SameLink.after {s u t : State} (h : SameLink u t) (hl : u.linkOpen = s.linkOpen) (hq : u.rxq = s.rxq)
    (hw : u.wire = s.wire) (hd : u.dev = s.dev) (hn : u.draws = s.draws) : SameLink s t :=
  SameLink.trans ⟨hl, hq, hw, hd, hn⟩ h

theorem State.finish_sameLink (s : State) : SameLink s s.finish := ⟨rfl, rfl, rfl, rfl, rfl⟩

theorem State.raiseError_sameLink (e : ErrCode) (s : State) : SameLink s (s.raiseError e) := by
  constructor <;> simp

theorem State.correctPass_sameLink (s : State) : SameLink s s.correctPass := by
  constructor <;> simp

/-- The places where VERIFY and CORRECT are, from their acceptance to their end (41_checksum.md R105, R106). -/
def SeqPos.checksum : SeqPos → Bool
  | .idle | .verifyPass | .correctPass => true
  | _ => false

theorem SeqPos.checksum_iff {p : SeqPos} :
    p.checksum = true ↔ p = .idle ∨ p = .verifyPass ∨ p = .correctPass := by
  cases p <;> simp [SeqPos.checksum]

/-- None of these places is in a transfer, so an error raised there is a rejection (60_exceptions.md R182). -/
theorem State.raiseError_seq_checksum {s : State} (e : ErrCode) (h : s.seq.checksum = true) :
    (s.raiseError e).seq = .idle := by
  have ht : s.seq.inTransfer = false := by
    rcases SeqPos.checksum_iff.1 h with hs | hs | hs <;> rw [hs] <;> rfl
  rw [State.raiseError_rejects e ht]

/-- VERIFY's check of the length (41_checksum.md R105). -/
theorem verifyBody_sameLink {s : State} (h : s.seq.checksum = true) :
    SameLink s (verifyBody s) ∧ (verifyBody s).seq.checksum = true ∧ (verifyBody s).inputs = s.inputs := by
  unfold verifyBody
  split_ifs
  · exact ⟨⟨rfl, rfl, rfl, rfl, rfl⟩, rfl, rfl⟩
  · exact ⟨(State.raiseError_sameLink _ _).after rfl rfl rfl rfl rfl,
      congrArg SeqPos.checksum (State.raiseError_seq_checksum (s := { s with vok := false }) _ h),
      State.raiseError_inputs _ _⟩

/-- CORRECT's check of the length (41_checksum.md R106). -/
theorem correctBody_sameLink {s : State} (h : s.seq.checksum = true) :
    SameLink s (correctBody s) ∧ (correctBody s).seq.checksum = true ∧
      (correctBody s).inputs = s.inputs := by
  unfold correctBody
  split_ifs
  · exact ⟨⟨rfl, rfl, rfl, rfl, rfl⟩, rfl, rfl⟩
  · exact ⟨State.raiseError_sameLink _ s, congrArg SeqPos.checksum (State.raiseError_seq_checksum _ h),
      State.raiseError_inputs _ s⟩

/-- An idle engine accepts VERIFY or CORRECT, or rejects it, without the link (40_link.md R94). -/
theorem exec_checksum_sameLink {i : Instr} {s t : State} (hi : i = .cmdVerify ∨ i = .cmdCorrect)
    (hb : s.busy = false) (h : exec i s = .next t) :
    SameLink s t ∧ t.seq.checksum = true ∧ t.inputs = s.inputs := by
  have hs : s.acknowledge.seq.checksum = true := by rw [State.acknowledge_seq, busy_eq_false.1 hb]; rfl
  have hack : SameLink s s.acknowledge := ⟨rfl, rfl, rfl, rfl, rfl⟩
  rcases hi with rfl | rfl
  · have ht : t = verifyBody s.acknowledge := by cases h; exact dispatch_idle hb
    obtain ⟨hl, hp⟩ := verifyBody_sameLink hs
    exact ht ▸ ⟨hack.trans hl, hp⟩
  · have ht : t = correctBody s.acknowledge := by cases h; exact dispatch_idle hb
    obtain ⟨hl, hp⟩ := correctBody_sameLink hs
    exact ht ▸ ⟨hack.trans hl, hp⟩

/-- The pass of VERIFY or CORRECT ends the command without the link (40_link.md R94). -/
theorem localStep_checksum_sameLink {s : State} (h : s.seq.checksum = true) :
    SameLink s (localStep s) ∧ (localStep s).seq = .idle := by
  rcases SeqPos.checksum_iff.1 h with hs | hs | hs <;> simp only [localStep, hs]
  · exact ⟨.refl s, trivial⟩
  · obtain ⟨acc, e | e⟩ := verifyStep_cases s <;> rw [e]
    · exact ⟨⟨rfl, rfl, rfl, rfl, rfl⟩, rfl⟩
    · exact ⟨(State.raiseError_sameLink _ _).after rfl rfl rfl rfl rfl, State.raiseError_seq_checksum _ h⟩
  · exact ⟨s.correctPass_sameLink.trans s.correctPass.finish_sameLink, State.finish_seq _⟩

/-- At these places no unit is presented: the step is the pass, or nothing when the command has ended. -/
theorem step_checksum {s : State} (hi : s.inputs = []) (h : s.seq.checksum = true) :
    step s = .next (localStep s) := by
  rcases SeqPos.checksum_iff.1 h with hs | hs | hs <;> exact step_local hi hs rfl rfl

end Sys2Proof.Machine

namespace Sys2Proof.Safety

open Sys2Proof.Machine

/-- Settles O60: neither the acceptance nor the pass touches the link, and after the pass the command has ended. -/
theorem checksumCommandsTouchNoLink : Obligations.ChecksumCommandsTouchNoLink := by
  intro s s₁ t i hi hb hq hexec hstep
  obtain ⟨haccept, hs, hq₁⟩ := exec_checksum_sameLink hi hb hexec
  rw [step_checksum (hq₁.trans hq) hs] at hstep
  cases hstep
  obtain ⟨hpass, hidle⟩ := localStep_checksum_sameLink hs
  have same := haccept.trans hpass
  exact ⟨same.linkOpen, same.rxq, same.wire, same.dev, same.draws, busy_eq_false.2 hidle⟩

end Sys2Proof.Safety
end

section
/-! The laws of the sum and of CorrectPass (41_checksum.md R100, R104, R108): O14 to O19. -/

namespace Sys2Proof.Machine

/-! ### The sum -/

/-- Adding up bytes from `c` on, modulo 256. -/
theorem toNat_foldl_add (c : Byte) (l : List Byte) :
    (l.foldl (· + ·) c).toNat = (c.toNat + (l.map BitVec.toNat).sum) % 256 := by
  induction l generalizing c with
  | nil => exact (Nat.mod_eq_of_lt c.isLt).symm
  | cons b l ih =>
    rw [List.foldl_cons, ih, BitVec.toNat_add, List.map_cons, List.sum_cons, Nat.mod_add_mod, Nat.add_assoc]

theorem State.toNat_sum8 (s : State) (a b : Nat) :
    (s.sum8 a b).toNat = (((List.range' a (b + 1 - a)).map fun k => (s.imgByte k).toNat).sum) % 256 := by
  rw [State.sum8, toNat_foldl_add, List.map_map]
  simp [Function.comp_def]

/-! ### What the passes read -/

theorem SameImage.computed {s t : State} (h : SameImage s t) (r : Region) : t.computed r = s.computed r :=
  State.computed_congr fun _ _ _ => by rw [h.imgByte]

/-- What CorrectPass makes of IMG depends on IMG alone. -/
theorem SameImage.correctPass {s t : State} (h : SameImage s t) : SameImage s.correctPass t.correctPass :=
  ⟨State.correctPass_img_congr h.img h.epoch, by simp [h.epoch]⟩

/-! ### What CorrectPass writes -/

/-- States that agree but for IMG and ACC. -/
theorem State.eq_with_img_acc {s t : State}
    (h : ∀ m a, { t with img := m, acc := a } = { s with img := m, acc := a }) :
    t = { s with img := t.img, acc := t.acc } := h t.img t.acc

/-- CorrectPass writes no field but IMG and ACC (41_checksum.md R104). -/
theorem State.correctPass_frame (s : State) :
    s.correctPass = { s with img := s.correctPass.img, acc := s.correctPass.acc } :=
  State.eq_with_img_acc (by simp)

/-- The checkbyte that a region's correction writes is none of the bytes it sums (R101). -/
theorem State.correctRegion_computed (r : Region) (s : State) :
    (s.correctRegion r).computed r = s.computed r := by
  have hpos : 0 < ckOff r := by cases r <;> decide
  exact State.computed_congr fun k _ hk => by rw [State.imgByte_correctRegion, if_neg (by omega)]

/-- ACC ends as the sum of region 3 over the corrected image: region 3 is the last one (R104). -/
theorem State.correctPass_acc (s : State) : s.correctPass.acc = s.correctPass.computed .three := by
  rw [State.correctPass, State.correctRegion_acc, State.correctRegion_computed]

/-! ### CorrectPass of a consistent image -/

theorem State.verifyPass_iff {s : State} : s.verifyPass = true ↔ ∀ r, s.regionMatches r = true := by
  simp only [State.verifyPass, Bool.and_eq_true]
  refine ⟨fun ⟨⟨h₁, h₂⟩, h₃⟩ r => ?_, fun h => ⟨⟨h .one, h .two⟩, h .three⟩⟩
  cases r with
  | one => exact h₁
  | two => exact h₂
  | three => exact h₃

/-- A region that matches is summed and not written (R104). -/
theorem State.correctRegion_of_matches {s : State} {r : Region} (h : s.regionMatches r = true) :
    s.correctRegion r = { s with acc := s.computed r } := by
  have hstored : s.stored r = s.computed r := (eq_of_beq h).symm
  exact if_pos hstored

theorem State.correctRegion_sameImage {s : State} {r : Region} (h : s.regionMatches r = true) :
    SameImage s (s.correctRegion r) := by
  rw [State.correctRegion_of_matches h]
  exact ⟨rfl, rfl⟩

/-- On a consistent image CorrectPass writes nothing of it (R108 (d)). -/
theorem State.correctPass_sameImage {s : State} (h : s.verifyPass = true) : SameImage s s.correctPass := by
  have keeps : ∀ {t : State} (r : Region), SameImage s t → SameImage s (t.correctRegion r) := fun r ht =>
    ht.trans (State.correctRegion_sameImage (State.verifyPass_iff.1 (ht.verifyPass.trans h) r))
  exact keeps .three (keeps .two (keeps .one (.refl s)))

/-! ### The old checkbytes have no influence -/

/-- The images of `s` and `t` agree but at the checkbytes of the regions `rs`. -/
def AgreeExcept (rs : List Region) (s t : State) : Prop :=
  ∀ a, a < Config.imgLen → (∀ r ∈ rs, a ≠ ckOff r) → s.imgByte a = t.imgByte a

/-- The correction of the first region makes its checkbytes agree too, when the others lie behind it: it sums bytes
that agree (41_checksum.md R101, R104). -/
theorem AgreeExcept.correctRegion {r : Region} {rs : List Region} {s t : State}
    (h : AgreeExcept (r :: rs) s t) (later : ∀ q ∈ rs, ckOff r < ckOff q) :
    AgreeExcept rs (s.correctRegion r) (t.correctRegion r) := by
  have hpos : 0 < ckOff r := by cases r <;> decide
  have hlen : ckOff r < Config.imgLen := by cases r <;> decide
  have hsum : s.computed r = t.computed r := State.computed_congr fun k _ hk =>
    h k (by omega) (List.forall_mem_cons.2 ⟨by omega, fun q hq => by have := later q hq; omega⟩)
  intro a ha hne
  rw [State.imgByte_correctRegion, State.imgByte_correctRegion]
  split_ifs with hr
  · exact hsum
  · exact h a ha (List.forall_mem_cons.2 ⟨hr, hne⟩)

/-- After CorrectPass the images agree everywhere (R108 (f)). -/
theorem AgreeExcept.correctPass {s t : State} (h : AgreeExcept [.one, .two, .three] s t) :
    AgreeExcept [] s.correctPass t.correctPass :=
  ((h.correctRegion (by decide)).correctRegion (by decide)).correctRegion (by decide)

end Sys2Proof.Machine

namespace Sys2Proof.Safety

open Sys2Proof.Machine

/-- Settles O14, by induction over the bytes summed. -/
theorem sum8IsTheSumModulo256 : Obligations.Sum8IsTheSumModulo256 := State.toNat_sum8

/-- Settles O15: a region matches once it is corrected, and a later region writes only above its checkbyte. -/
theorem verifyHoldsAfterCorrect : Obligations.VerifyHoldsAfterCorrect := State.correctPass_verifyPass

/-- Settles O16: the bytes by what a region's correction writes, the registers by the frame of CorrectPass. -/
theorem correctChangesOnlyCheckbytes : Obligations.CorrectChangesOnlyCheckbytes := fun s =>
  ⟨fun _ ha => State.imgByte_correctPass_of_ne (isCheckbyte_eq_false.1 ha), s.correctPass_frame⟩

/-- Settles O17: the image after CorrectPass is consistent, and ACC already holds its sum of region 3. -/
theorem correctIsIdempotent : Obligations.CorrectIsIdempotent := by
  intro s
  have same : SameImage s.correctPass s.correctPass.correctPass :=
    State.correctPass_sameImage s.correctPass_verifyPass
  have hacc : s.correctPass.correctPass.acc = s.correctPass.acc := by
    rw [State.correctPass_acc, same.computed, ← State.correctPass_acc]
  rw [s.correctPass.correctPass_frame, same.img, hacc]

/-- Settles O18: a consistent image is not written; conversely VerifyPass holds after CorrectPass (R108 (a)) and
reads the same image before it. -/
theorem verifyIffCorrectChangesNothing : Obligations.VerifyIffCorrectChangesNothing := by
  refine fun s => ⟨fun h => (State.correctPass_sameImage h).img, fun h => ?_⟩
  have same : SameImage s s.correctPass := ⟨h, s.correctPass_epoch⟩
  rw [← same.verifyPass, s.correctPass_verifyPass]

/-- Settles O19: region by region the two images agree at one checkbyte more. -/
theorem checkbytesDependOnOtherBytesOnly : Obligations.CheckbytesDependOnOtherBytesOnly := by
  intro s t h a ha
  have before : AgreeExcept [.one, .two, .three] s t := fun k hk hne =>
    h k hk (isCheckbyte_eq_false.2 fun r => hne r (by cases r <;> simp))
  exact before.correctPass a ha (by simp)

end Sys2Proof.Safety
end

section
/-! VERIFY and CORRECT, from acceptance to the end of the command: O12, O13. -/

namespace Sys2Proof.Machine

/-- VERIFY's and CORRECT's own rules accept a whole image (41_checksum.md R105, R106). -/
theorem verifyBody_accepts {s : State} (h : s.len.toNat = Config.imgLen) : verifyBody s = s.goTo .verifyPass :=
  if_pos h

theorem correctBody_accepts {s : State} (h : s.len.toNat = Config.imgLen) :
    correctBody s = s.goTo .correctPass := if_pos h

/-- Any other length rejects the command just taken; VERIFY then clears VOK too (R105, R106). -/
theorem verifyBody_rejects {s : State} (hs : s.seq = .idle) (h : s.len.toNat ≠ Config.imgLen) :
    verifyBody s.acknowledge = { s with vok := false, err := .lengthMismatch } :=
  (if_neg h).trans (State.raiseError_acknowledge (s := { s with vok := false }) _ hs)

theorem correctBody_rejects {s : State} (hs : s.seq = .idle) (h : s.len.toNat ≠ Config.imgLen) :
    correctBody s.acknowledge = { s with err := .lengthMismatch } :=
  (if_neg h).trans (State.raiseError_acknowledge _ hs)

/-- The pass of VERIFY ends the command, with the error by what it finds (R105). -/
theorem verifyStep_eq {s : State} (hs : s.seq = .verifyPass) :
    verifyStep s = { s with
      acc := s.computed .three, vok := s.verifyPass
      err := if s.verifyPass then s.err else .checksumInvalid, seq := .idle } := by
  unfold verifyStep
  generalize s.computed .three = sum
  cases s.verifyPass with
  | true => rfl
  | false => exact State.raiseError_rejects _ (by rw [hs]; rfl)

/-- The pass of VERIFY, on the image as it was when the command was taken. -/
theorem verifyStep_accepted (s : State) :
    verifyStep (s.acknowledge.goTo .verifyPass) = { s with
      acc := s.computed .three, vok := s.verifyPass
      err := if s.verifyPass then .none else .checksumInvalid, seq := .idle } := by
  have same : SameImage s (s.acknowledge.goTo .verifyPass) := ⟨rfl, rfl⟩
  rw [verifyStep_eq (State.goTo_seq _ _), same.computed, same.verifyPass]
  generalize s.computed .three = sum
  generalize s.verifyPass = v
  rfl

/-- The pass of CORRECT, on the image as it was when the command was taken, and its end (R106). -/
theorem correctStep_accepted (s : State) :
    correctStep (s.acknowledge.goTo .correctPass) =
      { s with img := s.correctPass.img, acc := s.correctPass.acc, err := .none, seq := .idle } := by
  have same : SameImage s.correctPass (s.acknowledge.goTo .correctPass).correctPass :=
    SameImage.correctPass ⟨rfl, rfl⟩
  rw [correctStep, State.correctPass_frame, State.correctPass_acc, same.computed, ← State.correctPass_acc,
    same.img]
  generalize s.correctPass = u
  rfl

end Sys2Proof.Machine

namespace Sys2Proof.Safety

open Sys2Proof.Machine

/-- Settles O12: the acceptance by the length, then the step at VERIFY's pass. -/
theorem verifyReportsInVokAndErr : Obligations.VerifyReportsInVokAndErr := by
  intro s hb hi
  have hs : s.seq = .idle := busy_eq_false.1 hb
  have hexec : exec .cmdVerify s = .next (verifyBody s.acknowledge) :=
    congrArg Host.Outcome.next (dispatch_idle hb)
  rw [hexec]
  refine ⟨fun hn => by rw [verifyBody_rejects hs hn], fun hn => ⟨s.acknowledge.goTo .verifyPass, ?_, rfl,
    s.computed .three, ?_⟩⟩
  · rw [verifyBody_accepts (s := s.acknowledge) hn]
  · have hstep : step (s.acknowledge.goTo .verifyPass) = .next (verifyStep (s.acknowledge.goTo .verifyPass)) :=
      step_checksum hi rfl
    rw [hstep, verifyStep_accepted, ← hs]

/-- Settles O13: the acceptance by the length, then the step at CORRECT's pass and the laws of CorrectPass. -/
theorem correctRunsThePassOrRejects : Obligations.CorrectRunsThePassOrRejects := by
  intro s hb hi
  have hs : s.seq = .idle := busy_eq_false.1 hb
  have hexec : exec .cmdCorrect s = .next (correctBody s.acknowledge) :=
    congrArg Host.Outcome.next (dispatch_idle hb)
  rw [hexec]
  refine ⟨fun hn => by rw [correctBody_rejects hs hn], fun hn => ⟨s.acknowledge.goTo .correctPass, ?_, rfl, ?_,
    (correctChangesOnlyCheckbytes s).1, (verifyIffCorrectChangesNothing s).1⟩⟩
  · rw [correctBody_accepts (s := s.acknowledge) hn]
  · have hstep : step (s.acknowledge.goTo .correctPass) = .next (correctStep (s.acknowledge.goTo .correctPass)) :=
      step_checksum hi rfl
    rw [hstep, correctStep_accepted, ← hs]

end Sys2Proof.Safety
end

section
/-! O20 and O42: the acceptance of RECV, and the step at a segment read. -/

namespace Sys2Proof.Machine

/-! ### The acceptance of RECV -/

/-- An idle engine takes RECV (30_encoding.md R77). -/
theorem exec_cmdRecv {s : State} (hb : s.busy = false) : exec .cmdRecv s = .next (recvBody s.acknowledge) :=
  congrArg Host.Outcome.next (dispatch_idle hb)

/-- With the link open RECV goes on to LK.FLUSHIN (42_receive.md R121, R122). -/
theorem recvBody_accepts {s : State} (h : s.linkOpen = true) :
    recvBody s = (s.startSession .rx).goTo .rxFlushIn := if_pos h

/-- With the link closed it is rejected: the session has been created, and ERR is all that follows (R121). -/
theorem recvBody_rejects {s : State} (hs : s.seq = .idle) (h : s.linkOpen = false) :
    recvBody s = { s.startSession .rx with err := .linkUnavailable } := by
  have hno : ¬(s.startSession .rx).linkOpen = true := by simp [h]
  rw [recvBody, if_neg hno, State.raiseError_rejects _ (by rw [State.startSession_seq, hs]; rfl), ← hs]
  rfl

/-! ### The lines after a segment read -/

/-- UNDERRUN and the LOG event of a short read (42_receive.md R123, R124). -/
theorem State.noteUnderrun_eq (b : Block) (got : Nat) (s : State) : s.noteUnderrun b got = { s with
    underrun := s.underrun || decide (got < segLen b)
    log := s.log ++ (if got < segLen b then [.underrun b got (segLen b)] else []) } := by
  unfold State.noteUnderrun
  split_ifs with h <;> simp [h]

/-- The length check after segment 3, in a transfer (R125). -/
theorem checkLength_eq {s : State} (hs : s.seq.inTransfer = true) : checkLength s = { s with
    len := s.rxcnt
    fsm := if s.rxcnt.toNat ≠ Config.imgLen then .aborted else s.fsm
    err := if s.rxcnt.toNat ≠ Config.imgLen then .lengthMismatch else s.err
    seq := if s.rxcnt.toNat = Config.imgLen then .rxCorrect else .aborting } := by
  unfold checkLength
  dsimp only
  by_cases h : s.rxcnt.toNat = Config.imgLen
  · simp [h, State.goTo]
  · simp [h, State.raiseError_inTransfer (s := { s with len := s.rxcnt }) .lengthMismatch hs]

/-- Segments 1 and 2 go on to the settle delay, segment 3 to the length check (R123, R125). -/
theorem afterSegment_eq {s : State} (b : Block) (hs : s.seq.inTransfer = true) : afterSegment b s = { s with
    len := if b = .three then s.rxcnt else s.len
    fsm := if b = .three ∧ s.rxcnt.toNat ≠ Config.imgLen then .aborted else s.fsm
    err := if b = .three ∧ s.rxcnt.toNat ≠ Config.imgLen then .lengthMismatch else s.err
    seq := if b ≠ .three then .rxSettle b
      else if s.rxcnt.toNat = Config.imgLen then .rxCorrect else .aborting } := by
  cases b with
  | one | two => simp [afterSegment, State.goTo]
  | three => simp [afterSegment, checkLength_eq hs]

/-- No line after the storing changes RXCNT. -/
theorem afterSegment_rxcnt {s : State} (b : Block) (hs : s.seq.inTransfer = true) :
    (afterSegment b s).rxcnt = s.rxcnt := by rw [afterSegment_eq b hs]

/-- Everything that the storing of a segment writes (R123, R124). -/
theorem storeSegment_eq (b : Block) (r : List Byte) (s : State) : storeSegment b r s = { s with
    img := Memory.writeBytes s.img s.rxcnt.toNat r
    rxcnt := s.rxcnt + BitVec.ofNat 16 r.length
    underrun := s.underrun || decide (r.length < segLen b)
    log := s.log ++ (if r.length < segLen b then [.underrun b r.length (segLen b)] else []) } := by
  rw [storeSegment, State.noteUnderrun_eq]

/-- A run of ascending writes is read back in its order. -/
theorem Memory.lookup_writeBytes_inside {m : Memory} {a k : Nat} {bs : List Byte} (h : k < bs.length) :
    (Memory.writeBytes m a bs).lookup (a + k) = some bs[k] := by
  induction bs generalizing m a k with
  | nil => simp at h
  | cons b bs ih =>
    rw [Memory.writeBytes]
    cases k with
    | zero => rw [Memory.lookup_writeBytes_outside (by omega)]; exact Memory.lookup_write_same m a b
    | succ k =>
      have hk := ih (m := m.write a b) (a := a + 1) (Nat.lt_of_succ_lt_succ h)
      rwa [Nat.add_assoc, Nat.add_comm 1 k] at hk

/-- The bytes of a segment stand in IMG from RXCNT on, in arrival order (R123, R124). -/
theorem imgByte_storeSegment_inside {b : Block} {r : List Byte} {s : State} {k : Nat} (h : k < r.length) :
    (storeSegment b r s).imgByte (s.rxcnt.toNat + k) = r[k] := by
  simp [State.imgByte, Safety.storeSegment_img, Memory.lookup_writeBytes_inside h]

end Sys2Proof.Machine

namespace Sys2Proof.Safety

open Sys2Proof.Machine

/-- The entry of a segment, then the device side's turn (log 1, log 18). -/
theorem deviceTurn_enter_rxRead {s : State} {b : Block} (hs : s.seq = .rxRead b) :
    s.enter.deviceTurn = { s.deviceTurn with fsm := segState b, blk := blockCode b } := by
  have he : s.enter = { s with fsm := segState b, blk := blockCode b } := by simp only [State.enter, hs]
  rw [he]
  exact (deviceTurn_entered s (segState b) (blockCode b) s.idx s.txb).trans (by simp)

/-- The step at the read of segment b, when the device side does not make it fail: the segment is entered, at most
SEGLEN[b] bytes are read and stored, and the lines after the segment follow (42_receive.md R123 to R125). -/
theorem step_rxRead {s : State} (h : Unfailing s) {b : Block} (hs : s.seq = .rxRead b)
    (hr : s.rxcnt.toNat ≤ segBase b) :
    Machine.step s = .next (afterSegment b (storeSegment b (s.deviceTurn.rxq.take (segLen b))
      { s.deviceTurn.takeBytes (segLen b) with fsm := segState b, blk := blockCode b })) := by
  have hin := segBase_add_segLen b
  have ho : s.offsetsInside = true := by
    simp only [State.offsetsInside, hs]
    exact decide_eq_true (by omega)
  have hx : exec (.lkRead (segLen b)) s.enter = .next (s.enter.deviceTurn.takeBytes (segLen b)) := by
    rw [State.deviceTurn_eq]
    exact whenOpen_linkStep_returns (by simpa using h.linkOpen) (by simpa using h.notFailing) fun _ => rfl
  rw [step_primitive h.inputs ho (request_rxRead (s.enter_seq.trans hs)) rfl hx,
    State.resume_returned (by simp) (by simp), deviceTurn_enter_rxRead hs]
  simp only [State.proceed, State.takeBytes_seq, State.deviceTurn_seq, hs, State.takeBytes_lkres,
    LinkResult.bytesOf]
  rfl

/-- Settles O20, by LINKOPEN: the writes of the session, then the first step or the rejection. -/
theorem recvStartsASessionOrIsRejected : Obligations.RecvStartsASessionOrIsRejected := by
  intro s hb
  have hs : s.seq = .idle := busy_eq_false.1 hb
  rw [exec_cmdRecv hb]
  cases hl : s.linkOpen with
  | true =>
    rw [recvBody_accepts (s := s.acknowledge) hl]
    simp [State.startSession, State.goTo, State.acknowledge, hl]
  | false =>
    rw [recvBody_rejects (s := s.acknowledge) hs hl]
    simp [State.startSession, State.acknowledge, hl, hs]

/-- Settles O42: the step is the storing and the lines after it, each one equation of states; IMG by what a run of
writes leaves at each offset. -/
theorem segmentReadStoresInArrivalOrder : Obligations.SegmentReadStoresInArrivalOrder := by
  intro s b q r hs hi hl hc hf hq hr
  have hturn : s.deviceTurn = { s.dropMove with rxq := q } := by rw [hq, State.deviceTurn_eq]
  have hstep := step_rxRead ⟨hi, hl, hf⟩ hs hc
  rw [show s.deviceTurn.rxq.take (segLen b) = r by rw [hturn, hr]] at hstep
  set v : State := { s.deviceTurn.takeBytes (segLen b) with fsm := segState b, blk := blockCode b } with hv
  have hcount : v.rxcnt = s.rxcnt := by simp [hv]
  have himg : SameImage s v := ⟨by simp [hv], by simp [hv]⟩
  have ht : (storeSegment b r v).seq.inTransfer = true := by simp [hv, hs, SeqPos.inTransfer]
  have hlast := afterSegment_sameImage b (storeSegment b r v)
  have hin : s.rxcnt.toNat + r.length ≤ Config.imgLen := by
    have := segBase_add_segLen b
    have : r.length ≤ segLen b := by rw [hr]; exact List.length_take_le _ _
    omega
  refine ⟨_, hstep, ?_, fun k hk => ?_, fun a ha => ?_, ?_⟩
  · rw [afterSegment_rxcnt b ht, storeSegment_rxcnt (by rwa [hcount]), hcount]
  · rw [hlast.imgByte, ← hcount, imgByte_storeSegment_inside hk]
  · rw [hlast.imgByte, imgByte_storeSegment_outside (by rwa [hcount]), himg.imgByte]
  · rw [afterSegment_eq b ht, storeSegment_eq]
    simp [hv, hturn, State.takeBytes, ← hr, Config.imgLen]

end Sys2Proof.Safety
end

section
/-! O43: UNDERRUN and the length check. -/

namespace Sys2Proof.Safety

open Sys2Proof.Machine

/-- Settles O43: at segment 3 fewer than 18 bytes are stored exactly when UNDERRUN is set, so after the read fewer
than 16211 are exactly when it is set or the read came short. -/
theorem lengthMismatchExactlyOnUnderrun : Obligations.LengthMismatchExactlyOnUnderrun := by
  intro s h hi hs hf
  have hp := h.place
  simp only [placeOk, hs] at hp
  obtain ⟨⟨-, hl, he⟩, -, -, ⟨hc, hu⟩, -⟩ := hp
  obtain ⟨t, hstep, hcount, -, -, ht⟩ := segmentReadStoresInArrivalOrder s .three _ _ hs hi hl hc hf rfl rfl
  refine ⟨t, hstep, ?_⟩
  have hr : ((enqueue s.cfg.wMax s.rxq s.nextMove.arrive).take (segLen .three)).length ≤ 16193 :=
    List.length_take_le _ _
  generalize (enqueue s.cfg.wMax s.rxq s.nextMove.arrive).take (segLen .three) = r at hcount ht hr
  have hshort : t.underrun = true ↔ t.rxcnt.toNat ≠ 16211 := by
    have hunder : t.underrun = (s.underrun || decide (r.length < 16193)) := by rw [ht]; rfl
    have hbase : segBase .three = 18 := rfl
    rw [hunder, Bool.or_eq_true, hu, decide_eq_true_iff, hcount]
    omega
  have herr : t.err = if t.rxcnt.toNat ≠ 16211 then .lengthMismatch else .none := by
    conv_lhs => rw [ht]
    simp [he]
  have hseq : t.seq = if t.rxcnt.toNat = 16211 then .rxCorrect else .aborting := by
    conv_lhs => rw [ht]
    simp
  constructor
  · rw [hshort, herr]
    split_ifs with hn <;> simp [hn]
  · rw [← Bool.not_eq_true, hshort, hseq, not_not]
    split_ifs with hn <;> simp [hn]

end Sys2Proof.Safety
end


section
/-! O44: a RECV whose device side supplies every segment in full. -/

namespace Sys2Proof.Machine

/-- Two runs of writes, the second from where the first ends, are one. -/
theorem Memory.writeBytes_append (m : Memory) (a : Nat) (bs cs : List Byte) :
    Memory.writeBytes m a (bs ++ cs) = Memory.writeBytes (Memory.writeBytes m a bs) (a + bs.length) cs := by
  induction bs generalizing m a with
  | nil => rfl
  | cons b bs ih =>
    rw [List.cons_append, Memory.writeBytes, ih, Memory.writeBytes, List.length_cons, Nat.add_right_comm]
    rfl

/-- An image that has been written from offset 0 on holds those bytes. -/
theorem State.imgByte_of_writeBytes {s : State} {m : Memory} {bs : List Byte} (hs : s.img = Memory.writeBytes m 0 bs)
    {a : Nat} (h : a < bs.length) : s.imgByte a = bs[a] := by
  have hl := Memory.lookup_writeBytes_inside (m := m) (a := 0) h
  rw [Nat.zero_add] at hl
  rw [State.imgByte, hs, hl]
  rfl

/-- A segment that is not short is stored and counted, and no flag is set (42_receive.md R123, R124). -/
theorem storeSegment_full {b : Block} {r : List Byte} {s : State} (hr : r.length = segLen b)
    (hc : s.rxcnt = BitVec.ofNat 16 (segBase b)) : storeSegment b r s = { s with
      img := Memory.writeBytes s.img (segBase b) r, rxcnt := BitVec.ofNat 16 (segBase b + segLen b) } := by
  have hbase : (BitVec.ofNat 16 (segBase b)).toNat = segBase b := by cases b <;> rfl
  rw [storeSegment_eq, hc, hr, hbase, ← BitVec.ofNat_add]
  simp

/-- Segments 1 and 2 go on to the settle delay (R123). -/
theorem afterSegment_goTo_rxSettle {b : Block} {s : State} (hb : b ≠ .three) :
    afterSegment b s = s.goTo (.rxSettle b) := by
  cases b with
  | one | two => rfl
  | three => exact absurd rfl hb

/-- After three full segments the length check goes on to the correction (R125). -/
theorem afterSegment_three_full {s : State} (hc : s.rxcnt.toNat = Config.imgLen) :
    afterSegment .three s = { s with len := s.rxcnt, seq := .rxCorrect } := if_pos hc

end Sys2Proof.Machine

namespace Sys2Proof.Safety

open Sys2Proof.Machine

/-- The two flushes, with a device side that waits (42_receive.md R122): RXQ is empty and RXCNT is 0. -/
theorem runFor_rxFlush {s : State} {rest : List DevMove} (hs : s.seq = .rxFlushIn)
    (h : Served s [] (supplies [] :: rest)) :
    runFor 2 s = .next { s with
      dev := rest, rxq := [], lkres := .done, fsm := .flushed, rxcnt := 0, seq := .rxRead .one } := by
  rw [runFor_step (h.rxFlushIn hs)]
  exact runFor_step (Served.rxFlushOut ⟨h.inputs, h.linkOpen, h.unbounded, rfl⟩ rfl)

/-- The read of a segment that the device side supplies in full (R123, R124). -/
theorem step_rxRead_full {s : State} {b : Block} {d : List Byte} {rest : List DevMove} (hs : s.seq = .rxRead b)
    (h : Served s d rest) (hq : s.rxq = []) (hc : s.rxcnt = BitVec.ofNat 16 (segBase b))
    (hd : d.length = segLen b) :
    Machine.step s = .next (afterSegment b { s with
      dev := rest, rxq := [], fsm := segState b, blk := blockCode b, lkres := .bytes d
      img := Memory.writeBytes s.img (segBase b) d, rxcnt := BitVec.ofNat 16 (segBase b + segLen b) }) := by
  have hin : s.rxcnt.toNat + segLen b ≤ Config.imgLen := by rw [hc]; cases b <;> decide
  have htake : ([] ++ d).take (segLen b) = d := List.take_of_length_le hd.le
  have hdrop : ([] ++ d).drop (segLen b) = [] := List.drop_of_length_le hd.le
  rw [h.rxRead hs hin, hq, htake, hdrop]
  refine congrArg Host.Outcome.next (congrArg (afterSegment b) ?_)
  exact storeSegment_full hd hc

/-- The settle delay, the ACK and the read of its echo (R123): one ACK is sent, and whatever byte comes back is
logged. -/
theorem runFor_rxAckExchange {s : State} {b : Block} {e : List Byte} {rest : List DevMove}
    (hs : s.seq = .rxSettle b) (h : Served s [] (supplies [] :: supplies e :: rest)) (hq : s.rxq = [])
    (he : e.length = 1) :
    runFor 3 s = .next { s with
      dev := rest, rxq := [], lkres := .bytes e, wire := s.wire ++ [.byte 0x06#8]
      log := s.log ++ [.ackEcho .rx b e], seq := .rxRead (nextBlock b) } := by
  have hack : Served { s with dev := supplies [] :: supplies e :: rest, rxq := [], seq := .rxAck b } []
      (supplies e :: rest) := ⟨h.inputs, h.linkOpen, h.unbounded, rfl⟩
  have hecho : Served { s with
      dev := supplies e :: rest, rxq := [], wire := s.wire ++ [.byte 0x06#8], lkres := .done
      seq := .rxEcho b } e rest := ⟨h.inputs, h.linkOpen, h.unbounded, rfl⟩
  have htake : ([] ++ e).take 1 = e := List.take_of_length_le he.le
  have hdrop : ([] ++ e).drop 1 = [] := List.drop_of_length_le he.le
  rw [runFor_step (h.rxSettle hs), hq, List.append_nil, runFor_step (hack.rxAck rfl), List.append_nil,
    runFor_step (hecho.rxEcho rfl), htake, hdrop, runFor_zero]

/-- Segment 1 or 2 from its read to the echo of the ACK (R123). -/
theorem runFor_rxSegment {s : State} {b : Block} {d e : List Byte} {rest : List DevMove} (hb : b ≠ .three)
    (hs : s.seq = .rxRead b) (h : Served s d (supplies [] :: supplies [] :: supplies e :: rest))
    (hq : s.rxq = []) (hc : s.rxcnt = BitVec.ofNat 16 (segBase b)) (hd : d.length = segLen b)
    (he : e.length = 1) :
    runFor 4 s = .next { s with
      img := Memory.writeBytes s.img (segBase b) d, rxcnt := BitVec.ofNat 16 (segBase b + segLen b)
      fsm := segState b, blk := blockCode b, dev := rest, rxq := [], lkres := .bytes e
      wire := s.wire ++ [.byte 0x06#8], log := s.log ++ [.ackEcho .rx b e], seq := .rxRead (nextBlock b) } := by
  rw [runFor_step (step_rxRead_full hs h hq hc hd), afterSegment_goTo_rxSettle hb]
  refine runFor_rxAckExchange rfl ?_ rfl he
  exact ⟨h.inputs, h.linkOpen, h.unbounded, rfl⟩

/-- Segment 3, the correction and the LK.CLOSE (R124 to R126). -/
theorem runFor_rxLast {s u : State} {d : List Byte} {rest : List DevMove} (hs : s.seq = .rxRead .three)
    (h : Served s d rest) (hq : s.rxq = []) (hc : s.rxcnt = BitVec.ofNat 16 18) (hd : d.length = 16193)
    (hu : u = { s with
      img := Memory.writeBytes s.img 18 d, rxcnt := BitVec.ofNat 16 16211, len := BitVec.ofNat 16 16211
      fsm := .segment3, blk := 3#2, dev := rest, rxq := [], lkres := .bytes d, seq := .rxCorrect }) :
    runFor 3 s = .next { u.correctPass with
      fsm := .complete, seq := .idle, linkOpen := false, rxq := Config.undefinedRxq s.draws
      draws := s.draws + 1, lkres := .done } := by
  have hread : Machine.step s = .next u := by
    rw [step_rxRead_full hs h hq hc hd, hu]
    refine congrArg Host.Outcome.next (Eq.trans (afterSegment_three_full ?_) rfl)
    rfl
  have hi : u.inputs = [] := by rw [hu]; exact h.inputs
  have hl : u.linkOpen = true := by rw [hu]; exact h.linkOpen
  have hdraws : u.draws = s.draws := by rw [hu]
  have hseq : u.seq = .rxCorrect := by rw [hu]
  have hcorrect : Machine.step u = .next (u.correctPass.goTo .completing) := by
    rw [step_local hi hseq rfl rfl, localStep, hseq]
  have hclose := step_completing (s := u.correctPass.goTo .completing) rfl (by simpa using hi) (by simpa using hl)
  rw [runFor_step hread, runFor_step hcorrect, runFor_step hclose]
  simp [hdraws, State.goTo]

/-- The whole RECV from its first flush on: the three segments in a row, corrected, and the link closed (R127). -/
theorem runFor_cleanRecv {s : State} {d₁ d₂ d₃ e₁ e₂ : List Byte} {rest : List DevMove}
    (hs : s.seq = .rxFlushIn)
    (h : Served s [] (supplies [] :: supplies d₁ :: supplies [] :: supplies [] :: supplies e₁ :: supplies d₂ ::
      supplies [] :: supplies [] :: supplies e₂ :: supplies d₃ :: rest))
    (hd₁ : d₁.length = 10) (hd₂ : d₂.length = 8) (hd₃ : d₃.length = 16193) (he₁ : e₁.length = 1)
    (he₂ : e₂.length = 1) :
    ∃ u t : State, runFor 13 s = .next t ∧
      u = { s with
        img := Memory.writeBytes s.img 0 (d₁ ++ d₂ ++ d₃), rxcnt := BitVec.ofNat 16 16211
        len := BitVec.ofNat 16 16211, fsm := .segment3, blk := 3#2, dev := rest, rxq := [], lkres := .bytes d₃
        wire := s.wire ++ [.byte 0x06#8, .byte 0x06#8]
        log := s.log ++ [.ackEcho .rx .one e₁, .ackEcho .rx .two e₂], seq := .rxCorrect } ∧
      t = { u.correctPass with
        fsm := .complete, seq := .idle, linkOpen := false, rxq := Config.undefinedRxq s.draws
        draws := s.draws + 1, lkres := .done } := by
  refine ⟨_, _, ?_, rfl, rfl⟩
  refine Eq.trans (runFor_add (j := 2) (k := 11) (runFor_rxFlush hs h)) ?_
  refine Eq.trans (runFor_add (j := 4) (k := 7) (runFor_rxSegment (b := .one)
    (rest := supplies d₂ :: supplies [] :: supplies [] :: supplies e₂ :: supplies d₃ :: rest)
    (by decide) rfl ?_ rfl rfl hd₁ he₁)) ?_
  · exact ⟨h.inputs, h.linkOpen, h.unbounded, rfl⟩
  refine Eq.trans (runFor_add (j := 4) (k := 3) (runFor_rxSegment (b := .two) (rest := supplies d₃ :: rest)
    (by decide) rfl ?_ rfl rfl hd₂ he₂)) ?_
  · exact ⟨h.inputs, h.linkOpen, h.unbounded, rfl⟩
  refine runFor_rxLast (rest := rest) rfl ?_ rfl rfl hd₃ ?_
  · exact ⟨h.inputs, h.linkOpen, h.unbounded, rfl⟩
  · simp [Memory.writeBytes_append, hd₁, hd₂, segBase]

/-- Settles O44: the acceptance, then the run; its registers by the equation of the run and the frame of
CorrectPass, its image by the laws of CorrectPass. -/
theorem cleanRecvDeliversTheCorrectedImage : Obligations.CleanRecvDeliversTheCorrectedImage := by
  intro s d₁ d₂ d₃ e₁ e₂ rest hb hi hl hw hd₁ hd₂ hd₃ he₁ he₂ hdev
  obtain ⟨s₁, hs₁⟩ : ∃ s₁, s₁ = (s.acknowledge.startSession .rx).goTo .rxFlushIn := ⟨_, rfl⟩
  have hexec : exec .cmdRecv s = .next s₁ := by
    rw [exec_cmdRecv hb, recvBody_accepts (s := s.acknowledge) hl, hs₁]
  obtain ⟨u, t, hrun, hu, ht⟩ := runFor_cleanRecv (s := s₁) (rest := rest) (by rw [hs₁]; rfl)
    (by rw [hs₁]; exact ⟨hi, hl, hw, hdev⟩) hd₁ hd₂ hd₃ he₁ he₂
  have himg : SameImage u.correctPass t := ⟨by rw [ht], by rw [ht]⟩
  have hbusy : t.busy = false := by rw [ht]; rfl
  have herr : t.err = .none := by simp [ht, hu, hs₁]
  have hverify : t.verifyPass = true := by rw [himg.verifyPass, u.correctPass_verifyPass]
  have hobserve : (observe 0x20#8 t).map (·.img) = some (some (imageBytes t)) := by
    rw [observe_img hbusy, if_pos (imgObservable_iff.2 (.inl herr))]
  have hbytes (a : Nat) (h : a < (d₁ ++ d₂ ++ d₃).length) (hc : isCheckbyte a = false) :
      t.imgByte a = (d₁ ++ d₂ ++ d₃)[a] := by
    rw [himg.imgByte, State.imgByte_correctPass_of_ne (isCheckbyte_eq_false.1 hc)]
    exact State.imgByte_of_writeBytes (by rw [hu]) h
  refine ⟨s₁, t, hexec, hrun, hbusy, herr, ?_, ?_, ?_, ?_, ?_, ?_, ?_, ?_, ?_, ?_, ?_, ?_, hverify, hobserve, hbytes⟩
  all_goals simp [ht, hu, hs₁]

end Sys2Proof.Safety
end

section
/-! O56: the moves of FSM along every step. -/

namespace Sys2Proof.Machine

/-! ### What leaves FSM as it was -/

/-- A checksum pass or a Delay leaves FSM: VERIFY's error is a rejection (60_exceptions.md R182). -/
theorem localStep_fsm (s : State) : (localStep s).fsm = s.fsm := by
  cases hs : s.seq <;> simp only [localStep, hs]
  case verifyPass => rw [verifyStep_eq hs]
  case correctPass => exact (State.finish_fsm _).trans s.correctPass_fsm
  case rxCorrect | txCorrect => exact (State.goTo_fsm _ _).trans s.correctPass_fsm
  case rxSettle | txSettle => exact (State.goTo_fsm _ _).trans s.delay_fsm

@[simp] theorem continueBlock_fsm (b : Block) (s : State) : (continueBlock b s).fsm = s.fsm := by
  rw [continueBlock_eq, State.goTo_fsm]

@[simp] theorem blockDone_fsm (b : Block) (s : State) : (blockDone b s).fsm = s.fsm := by
  rw [blockDone_eq, State.goTo_fsm]

/-! ### The lines after a primitive -/

/-- An error in a transfer is an abort, at any other time it leaves FSM (60_exceptions.md R181, R182). -/
theorem State.raiseError_fsm_cases (e : ErrCode) (s : State) :
    (s.raiseError e).fsm = s.fsm ∨ s.seq.inTransfer = true ∧ (s.raiseError e).fsm = .aborted := by
  cases ht : s.seq.inTransfer with
  | true => exact .inr ⟨rfl, by rw [State.raiseError_inTransfer e ht]⟩
  | false => exact .inl (by rw [State.raiseError_rejects e ht])

/-- The decision on an echo leaves FSM unless it is the fatal one (43_send.md R149 to R152). -/
theorem echoTaken_fsm_cases (b : Block) (e : List Byte) (s : State) :
    (echoTaken b e s).fsm = s.fsm ∨ s.seq.inTransfer = true ∧ (echoTaken b e s).fsm = .aborted := by
  rcases echoTaken_cases b e s with h | ⟨-, h⟩ | ⟨-, h | h⟩ <;> rw [h]
  · exact .inl (by simp)
  · simpa using State.raiseError_fsm_cases .echoMismatchFatal (({ s with echo := e } : State).noteFatal b e)
  · exact .inl (by simp)
  · exact .inl (by simp)

/-- After a segment read FSM stays unless the length check fails (42_receive.md R125). -/
theorem afterSegment_fsm_cases (b : Block) {s : State} (hs : s.seq.inTransfer = true) :
    (afterSegment b s).fsm = s.fsm ∨ (afterSegment b s).fsm = .aborted := by
  rw [afterSegment_eq b hs]
  dsimp only
  split_ifs
  · exact .inr rfl
  · exact .inl rfl

/-- The lines after a primitive leave FSM, abort the transfer, or end the flushes (42_receive.md R129, 43_send.md
R157). -/
theorem State.proceed_fsm_cases (s : State) :
    s.proceed.fsm = s.fsm ∨ (s.seq.inTransfer = true ∧ s.proceed.fsm = .aborted) ∨
      ((s.seq = .rxFlushOut ∨ s.seq = .txFlushOut) ∧ s.proceed.fsm = .flushed) := by
  cases hs : s.seq <;> simp only [State.proceed, hs]
  case rxRead b =>
    rcases afterSegment_fsm_cases b (s := storeSegment b s.lkres.bytesOf s)
      (by rw [Safety.storeSegment_seq, hs]; rfl) with h | h
    · exact .inl (h.trans (Safety.storeSegment_fsm b _ s))
    · exact .inr (.inl ⟨rfl, h⟩)
  case txEcho b n =>
    rcases echoTaken_fsm_cases b s.lkres.bytesOf s with h | ⟨-, h⟩
    · exact .inl h
    · exact .inr (.inl ⟨rfl, h⟩)
  case txWrite b i => split_ifs <;> exact .inl rfl
  case rxFlushOut | txFlushOut => exact .inr (.inr (by simp))
  all_goals exact .inl (by simp)

/-- So do they when the primitive has failed or has not returned (40_link.md R91, U6). -/
theorem State.resume_fsm_cases (s : State) :
    s.resume.fsm = s.fsm ∨ (s.seq.inTransfer = true ∧ s.resume.fsm = .aborted) ∨
      ((s.seq = .rxFlushOut ∨ s.seq = .txFlushOut) ∧ s.resume.fsm = .flushed) := by
  rcases s.resume_cases with ⟨-, e⟩ | ⟨-, e⟩ | ⟨-, -, e⟩ <;> rw [e]
  · exact (State.raiseError_fsm_cases .linkUnavailable s).imp_right .inl
  · exact .inl rfl
  · exact s.proceed_fsm_cases

/-! ### The acceptance of a command -/

/-- A session starts with FSM = IDLE (30_encoding.md R77); no other rule of a command writes FSM at its acceptance. -/
theorem commandBody_fsm_cases (c : Byte) {s : State} (hs : s.seq = .idle) :
    (commandBody c s).fsm = s.fsm ∨ (commandBody c s).fsm = .idle := by
  have hraise (e : ErrCode) (t : State) (ht : t.seq = .idle) : (t.raiseError e).fsm = t.fsm := by
    rw [State.raiseError_rejects e (by rw [ht]; rfl)]
  refine commandBody_induction (P := fun t => t.fsm = s.fsm ∨ t.fsm = .idle) c ?_ (.inl rfl) (fun _ => ?_) ?_ ?_ ?_
    (.inl (hraise _ s hs))
  · unfold openBody
    split_ifs
    · exact .inl (hraise _ s hs)
    · exact .inl rfl
  · unfold verifyBody
    split_ifs
    · exact .inl rfl
    · exact .inl (hraise _ _ hs)
  · unfold correctBody
    split_ifs
    · exact .inl rfl
    · exact .inl (hraise _ s hs)
  · unfold recvBody
    dsimp only
    split_ifs
    · exact .inr rfl
    · exact .inr (hraise _ _ hs)
  · unfold sendBody
    dsimp only
    split_ifs
    · exact .inr rfl
    · exact .inr (hraise _ _ hs)
    · exact .inr (hraise _ _ hs)

end Sys2Proof.Machine

namespace Sys2Proof.Safety

open Sys2Proof.Machine

/-- FSM stays, or moves along an arrow of the transition tables (42_receive.md R129, 43_send.md R157). -/
def fsmGoes (f g : Fsm) : Prop := g = f ∨ (f, g) ∈ fsmMoves

theorem fsmGoes_refl (f : Fsm) : fsmGoes f f := .inl rfl

/-- A transfer can be aborted from every state that is not its end. -/
theorem fsmGoes_aborted {f : Fsm} (h : f ≠ .complete) : fsmGoes f .aborted := by
  cases f with
  | complete => exact absurd rfl h
  | aborted => exact .inl rfl
  | idle | flushed | segment1 | segment2 | segment3 => exact .inr (by decide)

/-- A transfer can be started wherever FSM rests (10_state.md R15). -/
theorem fsmGoes_idle {s : State} (h : fsmAtRest s) : fsmGoes s.fsm .idle := by
  rcases h with h | h | h <;> rw [h]
  · exact .inl rfl
  · exact .inr (by decide)
  · exact .inr (by decide)

/-- The entry of a block is the arrow from the state before it. -/
theorem fsmGoes_segState (b : Block) : fsmGoes (fsmBefore b) (segState b) := .inr (by cases b <;> decide)

/-- A transfer that has not ended has not reached COMPLETE: the LK.CLOSE that completes it is still to come. -/
theorem placeOk_fsm_ne_complete {s : State} (h : placeOk s) (ht : s.seq.inTransfer = true) : s.fsm ≠ .complete := by
  have hseg (b : Block) : segState b ≠ .complete := by cases b <;> decide
  have hbefore (b : Block) : fsmBefore b ≠ .complete := by cases b <;> decide
  cases hs : s.seq <;> simp only [placeOk, hs] at h <;> simp only [hs, SeqPos.inTransfer, reduceCtorEq] at ht
  case rxFlushIn | rxFlushOut | txCorrect | txFlushIn | txFlushOut =>
    obtain ⟨-, hf, -⟩ := h
    rw [hf]; decide
  case rxRead b =>
    obtain ⟨-, hf, -⟩ := h
    rw [hf]; exact hbefore b
  case rxSettle | rxAck | rxEcho | rxCorrect =>
    obtain ⟨⟨-, hf, -⟩, -⟩ := h
    rw [hf]; exact hseg _
  case txWrite b i =>
    obtain ⟨-, -, -, -, ⟨hf, -⟩ | ⟨-, hf, -⟩⟩ := h
    · rw [hf]; exact hseg b
    · rw [hf]; exact hbefore b
  case txBreak | txWaiting | txEcho | txSettle | txAckWaiting | txAckRead | txAck | txAckEchoWaiting |
      txAckEchoRead =>
    obtain ⟨⟨⟨-, hf, -⟩, -⟩, -⟩ := h
    rw [hf]; exact hseg _
  case completing =>
    obtain ⟨⟨-, hf, -⟩ | ⟨-, hf, -⟩, -⟩ := h <;> rw [hf] <;> decide
  case aborting =>
    obtain ⟨-, -, hf, -⟩ := h
    rw [hf]; decide

/-- The lines before a primitive enter a block or end the transfer (log 1). -/
theorem enter_fsmGoes {s : State} (h : placeOk s) : fsmGoes s.fsm s.enter.fsm := by
  by_cases hr : ∃ b, s.seq = .rxRead b
  · obtain ⟨b, hs⟩ := hr
    simp only [placeOk, hs] at h
    obtain ⟨-, hf, -⟩ := h
    simp only [State.enter, hs, hf]
    exact fsmGoes_segState b
  by_cases hw : ∃ b i, s.seq = .txWrite b i
  · obtain ⟨b, i, hs⟩ := hw
    simp only [placeOk, hs] at h
    obtain ⟨-, -, -, -, hf⟩ := h
    rw [enter_txWrite hs]
    dsimp only
    split_ifs with h0
    · rcases hf with ⟨hf, -⟩ | ⟨-, hf, -⟩ <;> rw [hf]
      · exact fsmGoes_refl _
      · exact fsmGoes_segState b
    · exact fsmGoes_refl _
  by_cases hc : s.seq = .completing
  · simp only [placeOk, hc] at h
    have hf : s.fsm = .segment3 := by
      obtain ⟨⟨-, hf, -⟩ | ⟨-, hf, -⟩, -⟩ := h <;> exact hf
    simp only [State.enter, hc, hf]
    exact .inr (by decide)
  · rw [State.enter_eq_self (by simpa using hr) (by simpa using hw) hc]
    exact fsmGoes_refl _

/-- A flush is issued with FSM = IDLE (42_receive.md R122, 43_send.md R143). -/
theorem placeOk_flushOut {s : State} (h : placeOk s) (hs : s.seq = .rxFlushOut ∨ s.seq = .txFlushOut) :
    s.fsm = .idle := by
  rcases hs with hs | hs <;>
  · simp only [placeOk, hs] at h
    obtain ⟨-, hf, -⟩ := h
    exact hf

/-- An engine step takes at most one arrow: the lines before the primitive, or those after it. -/
theorem engineStep_fsmGoes {s t : State} (h : Inv s) (he : engineStep s = .next t) : fsmGoes s.fsm t.fsm := by
  rcases engineStep_next he with ⟨-, -, rfl⟩ | ⟨-, u, i, v, -, -, -, -, -, same, rfl⟩
  · rw [localStep_fsm]
    exact fsmGoes_refl _
  have hseq : v.seq = s.seq := same.seq.trans s.enter_seq
  rcases v.resume_fsm_cases with hf | ⟨ht, hf⟩ | ⟨hs, hf⟩ <;> rw [hf]
  · rw [same.fsm]
    exact enter_fsmGoes h.place
  · exact fsmGoes_aborted (placeOk_fsm_ne_complete h.place (hseq ▸ ht))
  · rw [placeOk_flushOut h.place (by rwa [hseq] at hs)]
    exact .inr (by decide)

/-- Settles O56, by the cases of a step: the engine's own arrows, and IDLE when a transfer is accepted. -/
theorem fsmMovesAlongTheTables : Obligations.FsmMovesAlongTheTables := by
  intro s t h hr hstep
  have hq (rest : List Input) : Inv { s with inputs := rest } := h.quiet rest s.hrd s.rxq
  cases step_cases hstep with
  | engine q _ he => exact engineStep_fsmGoes (s := { s with inputs := q }) (hq q) he
  | command c i rest =>
    refine dispatch_induction (P := fun t => fsmGoes s.fsm t.fsm) (fun _ => fsmGoes_refl _) fun hb => ?_
    rcases commandBody_fsm_cases c (s := ({ s with inputs := rest } : State).acknowledge) (busy_eq_false.1 hb)
      with hf | hf <;> rw [hf]
    · exact fsmGoes_refl _
    · exact fsmGoes_idle (h.idle hb)
  | request i rest hb hp he =>
    exact .inl (exec_request_same (s := { s with inputs := rest }) hb hp he).fsm
  | writeImg | writeLen | quiet => exact fsmGoes_refl _
  | reset rest hi => exact absurd (by rw [hi]; rfl) hr

end Sys2Proof.Safety
end

section
/-! O21: the acceptance of SEND. -/

namespace Sys2Proof.Machine

/-- An idle engine takes SEND (30_encoding.md R77). -/
theorem exec_cmdSend {s : State} (hb : s.busy = false) : exec .cmdSend s = .next (sendBody s.acknowledge) :=
  congrArg Host.Outcome.next (dispatch_idle hb)

/-- With the declared length right and the link open SEND goes on to its correction (43_send.md R141, R142). -/
theorem sendBody_accepts {s : State} (hn : s.len.toNat = Config.imgLen) (hl : s.linkOpen = true) :
    sendBody s = (s.startSession .tx).goTo .txCorrect :=
  (if_pos hn).trans (if_pos hl)

/-- Both of SEND's checks end in a rejection of the session just created (R141, 60_exceptions.md R182). -/
theorem State.raiseError_startSession {s : State} (d : Dir) (e : ErrCode) (hs : s.seq = .idle) :
    (s.startSession d).raiseError e = { s.startSession d with err := e } := by
  rw [State.raiseError_rejects _ (by rw [State.startSession_seq, hs]; rfl), ← hs]
  rfl

/-- A wrong length rejects SEND, whatever the link (R141). -/
theorem sendBody_rejects_length {s : State} (hs : s.seq = .idle) (hn : s.len.toNat ≠ Config.imgLen) :
    sendBody s = { s.startSession .tx with err := .lengthMismatch } :=
  (if_neg hn).trans (State.raiseError_startSession .tx _ hs)

/-- With the length right, a closed link rejects it (R141). -/
theorem sendBody_rejects_link {s : State} (hs : s.seq = .idle) (hn : s.len.toNat = Config.imgLen)
    (hl : s.linkOpen = false) : sendBody s = { s.startSession .tx with err := .linkUnavailable } :=
  ((if_pos hn).trans (if_neg (by simp [hl]))).trans (State.raiseError_startSession .tx _ hs)

end Sys2Proof.Machine

namespace Sys2Proof.Safety

open Sys2Proof.Machine

/-- Settles O21, in the order of the checks: the writes of the session, then the first step or the rejection. -/
theorem sendChecksLengthThenLink : Obligations.SendChecksLengthThenLink := by
  intro s hb
  have hs : s.seq = .idle := busy_eq_false.1 hb
  rw [exec_cmdSend hb]
  by_cases hn : s.len.toNat = 16211
  · cases hl : s.linkOpen with
    | true =>
      rw [sendBody_accepts (s := s.acknowledge) hn hl]
      simp [State.startSession, State.goTo, State.acknowledge, hn, hl]
    | false =>
      rw [sendBody_rejects_link (s := s.acknowledge) hs hn hl]
      simp [State.startSession, State.acknowledge, hn, hl, hs]
  · rw [sendBody_rejects_length (s := s.acknowledge) hs hn]
    simp [State.startSession, State.acknowledge, hn, hs]

end Sys2Proof.Safety
end

section
/-! O30 and O31: the quirk pattern at an outstanding echo read. -/

namespace Sys2Proof.Machine

/-- Where an echo read can return it, the quirk pattern is what that read returns (30_encoding.md R68; log 14). -/
theorem exec_quirk_txEcho {s : State} {b : Block} {n : Nat} (hs : s.seq = .txEcho b n) (hn : 3 ≤ n) :
    exec .quirk s = .next (echoTaken b Config.quirkEcho s) := by
  simp only [exec, execQuirk, hs, if_pos hn]

/-- Three bytes are never the echo of one (43_send.md R149). -/
theorem quirkEcho_ne_singleton (x : Byte) : Config.quirkEcho ≠ [x] := by simp [Config.quirkEcho]

end Sys2Proof.Machine

namespace Sys2Proof.Safety

open Sys2Proof.Machine

/-- Settles O30: the decision on the echo is the quirk's, and the block is not the final one. -/
theorem quirkEndsTheBlockAsRecoverable : Obligations.QuirkEndsTheBlockAsRecoverable := by
  intro s b n hs hn hb ht
  rw [exec_quirk_txEcho hs hn, echoTaken_quirk hb ht rfl, blockDone_eq, if_neg hb]
  simp [State.noteQuirk, State.setRecov_eq, State.goTo, Config.quirkEcho]

/-- Settles O31: the decision on the echo is the fatal mismatch in block 3, a counted one before it. -/
theorem quirkPatternElsewhereIsAMismatch : Obligations.QuirkPatternElsewhereIsAMismatch := by
  intro s b n hs hn
  rw [exec_quirk_txEcho hs hn]
  refine ⟨fun hb => ?_, fun hb ht => ?_⟩
  · subst hb
    rw [echoTaken_fatal (quirkEcho_ne_singleton _), State.raiseError_inTransfer _ (by simp [hs, SeqPos.inTransfer])]
    rfl
  · rw [echoTaken_mismatch hb (quirkEcho_ne_singleton _) (fun h => ht h.1), continueBlock_eq, if_neg hb]
    rfl

end Sys2Proof.Safety
end

section
/-! O47: a mismatch in the final block. -/

namespace Sys2Proof.Safety

open Sys2Proof.Machine

/-- The LK.CLOSE of an abort (60_exceptions.md R181), which cannot fail. -/
theorem step_aborting {s : State} (hs : s.seq = .aborting) (hi : s.inputs = []) (hl : s.linkOpen = true) :
    Machine.step s = .next { s with
      seq := .idle, linkOpen := false, rxq := Config.undefinedRxq s.draws, draws := s.draws + 1, lkres := .done } := by
  have he : s.enter = s := State.enter_plain (by rw [hs]; rfl)
  rw [step_primitive (u := .lkReq 0x2#4 .none) (i := .lkClose) (v := s.closePort) hi
    (by simp only [State.offsetsInside, hs]) (by simp only [he, State.request, hs]) rfl (by rw [he]; rfl),
    State.resume_returned (by simp) (by simp), State.closePort_open hl]
  simp only [State.proceed, hs, State.finish]

/-- The two steps of a fatal mismatch, as one equation: the echo read with its decision, and the LK.CLOSE of the
abort (43_send.md R150, 60_exceptions.md R181). -/
theorem runFor_fatalEcho {s : State} (h : Unfailing s) {n : Nat} {e q : List Byte} (hs : s.seq = .txEcho .three n)
    (hq : q = enqueue s.cfg.wMax s.rxq s.nextMove.arrive) (he : e = q.take n) (hm : e ≠ [s.txb]) :
    runFor 2 s = .next { s.dropMove with
      echo := e, erridx := s.idx.setWidth 16, log := s.log ++ [.fatal .three s.idx.toNat s.txb e]
      err := .echoMismatchFatal, fsm := .aborted, seq := .idle, linkOpen := false
      rxq := Config.undefinedRxq s.dropMove.draws, draws := s.dropMove.draws + 1, lkres := .done } := by
  obtain ⟨-, hecho⟩ := echoDecidesTheNextByte s .three q h.inputs h.linkOpen h.notFailing hq
  obtain ⟨-, hfatal, -, -⟩ := hecho n e _ hs he rfl
  have hi : s.dropMove.inputs = [] := by rw [State.dropMove_inputs, h.inputs]
  have hl : s.dropMove.linkOpen = true := by rw [State.dropMove_linkOpen, h.linkOpen]
  refine Eq.trans (runFor_step (hfatal hm rfl)) ?_
  exact runFor_step (step_aborting rfl hi hl)

/-- Settles O47: by the two steps of a fatal mismatch. -/
theorem finalBlockMismatchAbortsAtOnce : Obligations.FinalBlockMismatchAbortsAtOnce := by
  intro s n hs hi hl hf hm
  obtain ⟨t, ht, hrun⟩ : ∃ t, t = _ ∧ runFor 2 s = .next t :=
    ⟨_, rfl, runFor_fatalEcho ⟨hi, hl, hf⟩ hs rfl rfl hm⟩
  have hbusy : t.busy = false := busy_eq_false.2 (by rw [ht])
  have herr : t.err = .echoMismatchFatal := by rw [ht]
  have hfsm : t.fsm = .aborted := by rw [ht]
  have hidx : t.erridx = s.idx.setWidth 16 := by rw [ht]
  have hnum : t.erridx.toNat = s.idx.toNat := by rw [hidx, BitVec.toNat_setWidth_of_le (by decide)]
  have hblock (hd : s.dir = .tx) : blockResult .three t = some (.fatal (s.idx.setWidth 16)) :=
    blockResult_fatal_iff.2 ⟨by simp [ht, hd], rfl, herr, hfsm, hidx⟩
  have hresult : sendResult t = some .echoMismatchFatal := by simp [sendResult, hbusy, herr]
  have hobserve : (observe 0x21#8 t).map (·.img) = some none := by
    rw [observe_img hbusy, if_neg]
    simp [imgObservable_iff, herr, isChecksumCommand, decodeCmd8]
  refine ⟨t, hrun, hbusy, herr, hnum, hfsm, ?_, ?_, ?_, ?_, ?_, ?_, ?_, hblock, hresult, hobserve⟩
  all_goals simp [ht]

end Sys2Proof.Safety
end

section
/-! O48: the ACK exchange of a non-final block. -/

namespace Sys2Proof.Safety

open Sys2Proof.Machine

/-- What an opportunistic read of at least m bytes returns, when LK.WAITING has seen the queue `q` and `a` arrives
before the read (40_link.md R89). -/
def oppTaken (m : Nat) (q a : List Byte) : List Byte := (q ++ a).take (max q.length m)

/-- What that read leaves in the queue. -/
def oppLeft (m : Nat) (q a : List Byte) : List Byte := (q ++ a).drop (max q.length m)

theorem oppTaken_append_oppLeft (m : Nat) (q a : List Byte) : oppTaken m q a ++ oppLeft m q a = q ++ a :=
  List.take_append_drop _ _

theorem length_oppTaken (m : Nat) (q a : List Byte) :
    (oppTaken m q a).length = min (max q.length m) (q ++ a).length := List.length_take

/-- The first half of the ACK exchange (43_send.md R153): the settle delay and the opportunistic read of the
device's ACK, which is logged. -/
theorem runFor_txDeviceAck {s : State} {b : Block} {a₀ a₁ a₂ : List Byte} {rest : List DevMove}
    (hs : s.seq = .txSettle b) (h : Served s a₀ (supplies a₁ :: supplies a₂ :: rest)) :
    runFor 3 s = .next { s with
      dev := rest, rxq := oppLeft s.cfg.ackReadMin.val (s.rxq ++ a₀ ++ a₁) a₂
      lkres := .bytes (oppTaken s.cfg.ackReadMin.val (s.rxq ++ a₀ ++ a₁) a₂)
      log := s.log ++ [.devAck b (oppTaken s.cfg.ackReadMin.val (s.rxq ++ a₀ ++ a₁) a₂)], seq := .txAck b } := by
  refine Eq.trans (runFor_step (h.txSettle hs)) ?_
  refine Eq.trans (runFor_step (Served.txAckWaiting (a := a₁) (rest := supplies a₂ :: rest) ?_ rfl)) ?_
  · exact ⟨h.inputs, h.linkOpen, h.unbounded, rfl⟩
  refine runFor_step (Served.txAckRead ?_ rfl)
  exact ⟨h.inputs, h.linkOpen, h.unbounded, rfl⟩

/-- The second half (R153): the engine's ACK and the opportunistic read of its echo, which is logged. -/
theorem runFor_txOwnAck {s : State} {b : Block} {a₃ a₄ a₅ : List Byte} {rest : List DevMove}
    (hs : s.seq = .txAck b) (h : Served s a₃ (supplies a₄ :: supplies a₅ :: rest)) :
    runFor 3 s = .next { s with
      dev := rest, rxq := oppLeft s.cfg.ackReadMin.val (s.rxq ++ a₃ ++ a₄) a₅
      lkres := .bytes (oppTaken s.cfg.ackReadMin.val (s.rxq ++ a₃ ++ a₄) a₅)
      wire := s.wire ++ [.byte 0x06#8]
      log := s.log ++ [.ackEcho .tx b (oppTaken s.cfg.ackReadMin.val (s.rxq ++ a₃ ++ a₄) a₅)]
      seq := .txWrite (nextBlock b) 0 } := by
  refine Eq.trans (runFor_step (h.txAck hs)) ?_
  refine Eq.trans (runFor_step (Served.txAckEchoWaiting (a := a₄) (rest := supplies a₅ :: rest) ?_ rfl)) ?_
  · exact ⟨h.inputs, h.linkOpen, h.unbounded, rfl⟩
  refine runFor_step (Served.txAckEchoRead ?_ rfl)
  exact ⟨h.inputs, h.linkOpen, h.unbounded, rfl⟩

/-- The whole ACK exchange, as one equation (R153): `d` and `e` are what the two reads return, `l₁` and `l₂` what
they leave. -/
theorem runFor_txAckExchange {s : State} {b : Block} {a₀ a₁ a₂ a₃ a₄ a₅ d l₁ e l₂ : List Byte}
    {rest : List DevMove} (hs : s.seq = .txSettle b)
    (h : Served s a₀ (supplies a₁ :: supplies a₂ :: supplies a₃ :: supplies a₄ :: supplies a₅ :: rest))
    (hd : d = oppTaken s.cfg.ackReadMin.val (s.rxq ++ a₀ ++ a₁) a₂)
    (hl₁ : l₁ = oppLeft s.cfg.ackReadMin.val (s.rxq ++ a₀ ++ a₁) a₂)
    (he : e = oppTaken s.cfg.ackReadMin.val (l₁ ++ a₃ ++ a₄) a₅)
    (hl₂ : l₂ = oppLeft s.cfg.ackReadMin.val (l₁ ++ a₃ ++ a₄) a₅) :
    runFor 6 s = .next { s with
      dev := rest, rxq := l₂, lkres := .bytes e, wire := s.wire ++ [.byte 0x06#8]
      log := s.log ++ [.devAck b d, .ackEcho .tx b e], seq := .txWrite (nextBlock b) 0 } := by
  subst hd hl₁ he hl₂
  refine Eq.trans (runFor_add (j := 3) (k := 3) (runFor_txDeviceAck hs h)) ?_
  refine Eq.trans (runFor_txOwnAck (a₃ := a₃) (a₄ := a₄) (a₅ := a₅) (rest := rest) rfl ?_) ?_
  · exact ⟨h.inputs, h.linkOpen, h.unbounded, rfl⟩
  · simp only [List.append_assoc, List.cons_append, List.nil_append]

/-- Settles O48: the exchange is one equation, in which no content of the bytes is tested. -/
theorem ackExchangeChecksNoContent : Obligations.AckExchangeChecksNoContent := by
  intro s b a₀ a₁ a₂ a₃ a₄ a₅ rest hs _ hi hl hw hdev
  have hrun := runFor_txAckExchange hs ⟨hi, hl, hw, hdev⟩ rfl rfl rfl rfl
  exact ⟨_, _, _, _, _, _, hrun, rfl, oppTaken_append_oppLeft _ _ _, length_oppTaken _ _ _, rfl,
    oppTaken_append_oppLeft _ _ _, length_oppTaken _ _ _, rfl, rfl, rfl, rfl, rfl, rfl, rfl, rfl, rfl, hl⟩

end Sys2Proof.Safety
end

section
/-! O49: the byte loop of a block whose every byte is echoed. -/

namespace Sys2Proof.Machine

/-- Where the byte loop of block b goes when k bytes are done (43_send.md R145, R153, R155). -/
def bytePlace (b : Block) (k : Nat) : SeqPos :=
  if k < segLen b then .txWrite b k else if b = .three then .completing else .txSettle b

theorem continueBlock_bytePlace (b : Block) (s : State) :
    continueBlock b s = s.goTo (bytePlace b (s.idx.toNat + 1)) := continueBlock_eq b s

/-- All bytes done: the ACK exchange, or after block 3 the LK.CLOSE. -/
theorem bytePlace_segLen (b : Block) :
    bytePlace b (segLen b) = if b = .three then .completing else .txSettle b := if_neg (Nat.lt_irrefl _)

end Sys2Proof.Machine

namespace Sys2Proof.Safety

open Sys2Proof.Machine

/-- IDX holds every index of a block (10_state.md R13). -/
theorem toNat_byteIndex {b : Block} {i : Nat} (hi : i < segLen b) : (BitVec.ofNat 14 i).toNat = i := by
  rw [BitVec.toNat_ofNat, Nat.mod_eq_of_lt (hi.trans (segLen_lt b))]

/-- The LK.WAITINGs of the echo read of byte i: one, but none for the last byte of the block (43_send.md R148). -/
def waitsOfByte (b : Block) (i : Nat) : Nat := if i + 1 = segLen b then 0 else 1

/-- What byte `x` of block b puts on WIRE (R146, R147). -/
def byteWire (b : Block) (x : Byte) : List WireEvent := .byte x :: if isFinal b then [] else [.brk .tBreak]

/-- The moves of a device side that echoes the first k bytes of block b. -/
def faithfulBytes (b : Block) (k : Nat) (s : State) : List DevMove :=
  (List.range k).flatMap fun i => faithfulByte b i (s.imgByte (segBase b + i))

/-- What the first k bytes of block b put on WIRE. -/
def bytesWire (b : Block) (k : Nat) (s : State) : List WireEvent :=
  (List.range k).flatMap fun i => byteWire b (s.imgByte (segBase b + i))

theorem faithfulBlock_eq (b : Block) (s : State) : faithfulBlock b s = faithfulBytes b (segLen b) s := rfl

theorem blockWire_eq (b : Block) (s : State) : blockWire b s = bytesWire b (segLen b) s := rfl

theorem faithfulBytes_succ (b : Block) (k : Nat) (s : State) :
    faithfulBytes b (k + 1) s = faithfulBytes b k s ++ faithfulByte b k (s.imgByte (segBase b + k)) := by
  simp [faithfulBytes, List.range_succ]

theorem bytesWire_succ (b : Block) (k : Nat) (s : State) :
    bytesWire b (k + 1) s = bytesWire b k s ++ byteWire b (s.imgByte (segBase b + k)) := by
  simp [bytesWire, List.range_succ]

/-- In block 3 the echo comes at the echo read, or at the LK.WAITING before it. -/
theorem faithfulByte_final {b : Block} (hb : isFinal b = true) (i : Nat) (x : Byte) :
    faithfulByte b i x =
      supplies [] :: supplies [x] :: List.replicate (waitsOfByte b i) (supplies []) := by
  simp [faithfulByte, primitivesOfByte, waitsOfByte, hb]

/-- In blocks 1 and 2 it comes at the break. -/
theorem faithfulByte_nonfinal {b : Block} (hb : isFinal b = false) (i : Nat) (x : Byte) :
    faithfulByte b i x =
      supplies [] :: supplies [x] :: supplies [] :: List.replicate (waitsOfByte b i) (supplies []) := by
  have hp : primitivesOfByte b i - 2 = waitsOfByte b i + 1 := by
    by_cases hlast : i + 1 = segLen b <;> simp [primitivesOfByte, waitsOfByte, hb, hlast]
  rw [faithfulByte, hp, List.replicate_succ]

/-- The engine may step alone with the link open, RXQ unbounded and empty: the loop is about to send a byte. -/
structure ReadyToSend (s : State) : Prop where
  inputs : s.inputs = []
  linkOpen : s.linkOpen = true
  unbounded : s.cfg.wMax = none
  rxq : s.rxq = []

theorem ReadyToSend.served {s : State} {a : List Byte} {rest : List DevMove} (h : ReadyToSend s)
    (hd : s.dev = supplies a :: rest) : Served s a rest := ⟨h.inputs, h.linkOpen, h.unbounded, hd⟩

/-- The echo read that returns exactly the byte sent: the loop goes on (43_send.md R149). -/
theorem step_txEcho_match {s : State} {b : Block} {n : Nat} {a : List Byte} {rest : List DevMove}
    (hs : s.seq = .txEcho b n) (h : Served s a rest) (hn : 1 ≤ n) (hq : s.rxq ++ a = [s.txb]) :
    Machine.step s = .next { s with
      dev := rest, rxq := [], lkres := .bytes [s.txb], echo := [s.txb], seq := bytePlace b (s.idx.toNat + 1) } := by
  have htake : [s.txb].take n = [s.txb] := List.take_of_length_le hn
  have hdrop : [s.txb].drop n = [] := List.drop_of_length_le hn
  rw [h.txEcho hs, hq, htake, hdrop]
  exact congrArg Host.Outcome.next ((echoTaken_match b rfl).trans (continueBlock_bytePlace b _))

/-- The whole echo read of byte i, with the LK.WAITING that sizes it where there is one, when all that is there or
comes is the byte sent (R148). -/
theorem runFor_echoRead {s : State} {b : Block} {i : Nat} {a : List Byte} {rest : List DevMove}
    (hs : s.seq = echoPlace b s) (hi : s.idx.toNat = i)
    (h : Served s a (List.replicate (waitsOfByte b i) (supplies []) ++ rest)) (hq : s.rxq ++ a = [s.txb]) :
    runFor ((List.replicate (waitsOfByte b i) (supplies [])).length + 1) s = .next { s with
      dev := rest, rxq := [], lkres := .bytes [s.txb], echo := [s.txb], seq := bytePlace b (i + 1) } := by
  subst hi
  by_cases hlast : s.idx.toNat + 1 = segLen b
  · rw [echoPlace, if_pos hlast] at hs
    simp only [waitsOfByte, if_pos hlast] at h ⊢
    exact runFor_step (step_txEcho_match hs h (Nat.le_refl 1) hq)
  · rw [echoPlace, if_neg hlast] at hs
    simp only [waitsOfByte, if_neg hlast] at h ⊢
    refine Eq.trans (runFor_step (h.txWaiting hs)) ?_
    rw [hq]
    refine runFor_step (step_txEcho_match (a := []) rfl ?_ (Nat.le_max_right _ _) (List.append_nil _))
    exact ⟨h.inputs, h.linkOpen, h.unbounded, rfl⟩

/-- One byte of a block, written and echoed: WIRE gains it, and the loop goes on (R145 to R149). -/
theorem runFor_faithfulByte {s : State} {b : Block} {i : Nat} {rest : List DevMove} (hs : s.seq = .txWrite b i)
    (hi : i < segLen b) (h : ReadyToSend s)
    (hd : s.dev = faithfulByte b i (s.imgByte (segBase b + i)) ++ rest) :
    runFor (faithfulByte b i (s.imgByte (segBase b + i))).length s = .next { s.enter with
      dev := rest, rxq := [], lkres := .bytes [s.enter.txb], echo := [s.enter.txb]
      wire := s.wire ++ byteWire b (s.imgByte (segBase b + i)), seq := bytePlace b (i + 1) } := by
  have hin := segBase_add_segLen b
  have hidx : s.enter.idx.toNat = i := by rw [enter_txWrite hs, toNat_byteIndex hi]
  have htxb : s.enter.txb = s.imgByte (segBase b + i) := by rw [enter_txWrite hs]
  rw [← htxb] at hd ⊢
  cases hb : isFinal b with
  | true =>
    rw [faithfulByte_final hb] at hd ⊢
    have hwrite := (h.served hd).txWrite hs (by omega)
    rw [hb, h.rxq] at hwrite
    refine Eq.trans (runFor_step hwrite) ?_
    refine Eq.trans (runFor_echoRead (b := b) (a := [s.enter.txb]) (rest := rest) rfl hidx ?_ rfl) ?_
    · exact ⟨by simpa using h.inputs, by simpa using h.linkOpen, by simpa using h.unbounded, rfl⟩
    · simp only [byteWire, hb, if_true]
  | false =>
    rw [faithfulByte_nonfinal hb] at hd ⊢
    have hwrite := (h.served hd).txWrite hs (by omega)
    rw [hb, h.rxq] at hwrite
    refine Eq.trans (runFor_step hwrite) ?_
    refine Eq.trans (runFor_step (Served.txBreak (b := b) (a := [s.enter.txb])
      (rest := supplies [] :: List.replicate (waitsOfByte b i) (supplies []) ++ rest) ?_ rfl)) ?_
    · exact ⟨by simpa using h.inputs, by simpa using h.linkOpen, by simpa using h.unbounded, rfl⟩
    refine Eq.trans (runFor_echoRead (b := b) (a := []) (rest := rest) rfl hidx ?_ rfl) ?_
    · exact ⟨by simpa using h.inputs, by simpa using h.linkOpen, by simpa using h.unbounded, rfl⟩
    · simp [byteWire, hb]

/-- The first k bytes of a block, by induction on k, as one equation up to the registers that each byte writes anew
(R145): FSM and BLK show the block once its first byte is done. -/
theorem runFor_faithfulBytes {s : State} {b : Block} {k : Nat} {rest : List DevMove} (hs : s.seq = .txWrite b 0)
    (hk : k ≤ segLen b) (h : ReadyToSend s) (hd : s.dev = faithfulBytes b k s ++ rest) :
    ∃ i x e r, runFor (faithfulBytes b k s).length s = .next { s with
      dev := rest, rxq := [], fsm := if k = 0 then s.fsm else segState b
      blk := if k = 0 then s.blk else blockCode b, idx := i, txb := x, echo := e, lkres := r
      wire := s.wire ++ bytesWire b k s, seq := bytePlace b k } := by
  induction k generalizing rest with
  | zero =>
    refine ⟨s.idx, s.txb, s.echo, s.lkres, congrArg Host.Outcome.next ?_⟩
    have hplace : bytePlace b 0 = s.seq := (if_pos (segLen_pos b)).trans hs.symm
    have hdev : rest = s.dev := hd.symm
    simp [hplace, hdev, ← h.rxq, bytesWire]
  | succ k ih =>
    rw [faithfulBytes_succ, List.append_assoc] at hd
    obtain ⟨i, x, e, r, hrun⟩ := ih (Nat.le_of_succ_le hk) hd
    obtain ⟨u, hu, hrun⟩ : ∃ u, u = _ ∧ runFor _ s = .next u := ⟨_, rfl, hrun⟩
    have hseq : u.seq = .txWrite b k := by rw [hu]; exact if_pos hk
    have hready : ReadyToSend u := by rw [hu]; exact ⟨h.inputs, h.linkOpen, h.unbounded, rfl⟩
    have himg : u.imgByte = s.imgByte := State.imgByte_congr (by rw [hu]) (by rw [hu])
    have hbyte := runFor_faithfulByte (rest := rest) hseq hk hready (by rw [hu]; rfl)
    rw [himg] at hbyte
    refine ⟨u.enter.idx, u.enter.txb, [u.enter.txb], .bytes [u.enter.txb], ?_⟩
    rw [faithfulBytes_succ, bytesWire_succ, List.length_append, runFor_add hrun, hbyte, enter_txWrite hseq]
    by_cases h0 : k = 0 <;> simp [hu, h0]

/-- The whole block (43_send.md R145, R156). -/
theorem runFor_faithfulBlock {s : State} {b : Block} {rest : List DevMove} (hs : s.seq = .txWrite b 0)
    (h : ReadyToSend s) (hd : s.dev = faithfulBlock b s ++ rest) :
    ∃ i x e r, runFor (faithfulBlock b s).length s = .next { s with
      dev := rest, rxq := [], fsm := segState b, blk := blockCode b, idx := i, txb := x, echo := e, lkres := r
      wire := s.wire ++ blockWire b s, seq := if b = .three then .completing else .txSettle b } := by
  rw [faithfulBlock_eq] at hd ⊢
  rw [blockWire_eq]
  obtain ⟨i, x, e, r, hrun⟩ := runFor_faithfulBytes hs (Nat.le_refl _) h hd
  rw [if_neg (segLen_pos b).ne', if_neg (segLen_pos b).ne', bytePlace_segLen] at hrun
  exact ⟨i, x, e, r, hrun⟩

/-- Settles O49: by the run of the whole block. -/
theorem faithfulEchoSendsTheWholeBlock : Obligations.FaithfulEchoSendsTheWholeBlock := by
  intro s b rest hs hi hl hw hq hd
  obtain ⟨i, x, e, r, hrun⟩ := runFor_faithfulBlock hs ⟨hi, hl, hw, hq⟩ hd
  exact ⟨_, hrun, rfl, rfl, rfl, rfl, rfl, rfl, rfl, rfl, rfl, rfl, rfl, rfl, hl⟩

end Sys2Proof.Safety
end

section
/-! O50: a SEND whose device side echoes every byte. -/

namespace Sys2Proof.Safety

open Sys2Proof.Machine

/-- The moves of a faithful device side depend on the image alone. -/
theorem faithfulBlock_congr {s t : State} (h : SameImage s t) (b : Block) :
    faithfulBlock b t = faithfulBlock b s := by
  unfold faithfulBlock
  rw [h.imgByte]

/-- So does what a block puts on WIRE. -/
theorem blockWire_congr {s t : State} (h : SameImage s t) (b : Block) : blockWire b t = blockWire b s := by
  unfold blockWire
  rw [h.imgByte]

theorem faithfulSend_congr {s t : State} (h : SameImage s t) (d₁ e₁ d₂ e₂ : List Byte) :
    faithfulSend t d₁ e₁ d₂ e₂ = faithfulSend s d₁ e₁ d₂ e₂ := by
  simp only [faithfulSend, faithfulBlock_congr h]

/-- An opportunistic read takes all that LK.WAITING has seen (40_link.md R89). -/
theorem oppTaken_nil (m : Nat) (q : List Byte) : oppTaken m q [] = q := by
  rw [oppTaken, List.append_nil, List.take_of_length_le (Nat.le_max_left _ _)]

/-- With nothing new before the read, nothing is left. -/
theorem oppLeft_nil (m : Nat) (q : List Byte) : oppLeft m q [] = [] := by
  rw [oppLeft, List.append_nil, List.drop_of_length_le (Nat.le_max_left _ _)]

/-- The ACK exchange with a device side that sends `d` as its ACK and echoes the engine's as `e` (43_send.md R153). -/
theorem runFor_acknowledges {s : State} {b : Block} {d e : List Byte} {rest : List DevMove}
    (hs : s.seq = .txSettle b) (h : ReadyToSend s) (hd : s.dev = acknowledges d e ++ rest) :
    runFor (acknowledges d e).length s = .next { s with
      dev := rest, rxq := [], lkres := .bytes e, wire := s.wire ++ [.byte 0x06#8]
      log := s.log ++ [.devAck b d, .ackEcho .tx b e], seq := .txWrite (nextBlock b) 0 } := by
  refine runFor_txAckExchange hs (h.served hd) (l₁ := []) ?_ ?_ ?_ ?_ <;>
    simp [h.rxq, oppTaken_nil, oppLeft_nil]

/-- A block that is not the last, with its ACK exchange (R145, R153). -/
theorem runFor_faithfulAckedBlock {s : State} {b : Block} {d e : List Byte} {rest : List DevMove}
    (hs : s.seq = .txWrite b 0) (hb : b ≠ .three) (h : ReadyToSend s)
    (hd : s.dev = faithfulBlock b s ++ (acknowledges d e ++ rest)) :
    ∃ i x y, runFor ((faithfulBlock b s).length + (acknowledges d e).length) s = .next { s with
      dev := rest, rxq := [], fsm := segState b, blk := blockCode b, idx := i, txb := x, echo := y
      lkres := .bytes e, wire := s.wire ++ (blockWire b s ++ [.byte 0x06#8])
      log := s.log ++ [.devAck b d, .ackEcho .tx b e], seq := .txWrite (nextBlock b) 0 } := by
  obtain ⟨i, x, y, r, hrun⟩ := runFor_faithfulBlock hs h hd
  rw [if_neg hb] at hrun
  refine ⟨i, x, y, (runFor_add hrun).trans ((runFor_acknowledges rfl ?_ rfl).trans ?_)⟩
  · exact ⟨h.inputs, h.linkOpen, h.unbounded, rfl⟩
  · simp only [List.append_assoc]

/-- The two flushes, with a device side that waits (R143): RXQ is empty. -/
theorem runFor_txFlush {s : State} {rest : List DevMove} (hs : s.seq = .txFlushIn)
    (h : Served s [] (supplies [] :: rest)) :
    runFor 2 s = .next { s with
      dev := rest, rxq := [], lkres := .done, fsm := .flushed, seq := .txWrite .one 0 } := by
  rw [runFor_step (h.txFlushIn hs)]
  exact runFor_step (Served.txFlushOut ⟨h.inputs, h.linkOpen, h.unbounded, rfl⟩ rfl)

/-- Block 3 and the LK.CLOSE (R154, R155). -/
theorem runFor_txLast {s : State} {rest : List DevMove} (hs : s.seq = .txWrite .three 0) (h : ReadyToSend s)
    (hd : s.dev = faithfulBlock .three s ++ rest) :
    ∃ i x y, runFor ((faithfulBlock .three s).length + 1) s = .next { s with
      dev := rest, rxq := Config.undefinedRxq s.draws, draws := s.draws + 1, linkOpen := false, fsm := .complete
      blk := 3#2, idx := i, txb := x, echo := y, lkres := .done, wire := s.wire ++ blockWire .three s
      seq := .idle } := by
  obtain ⟨i, x, y, r, hrun⟩ := runFor_faithfulBlock hs h hd
  exact ⟨i, x, y, (runFor_add hrun).trans (runFor_step (step_completing rfl h.inputs h.linkOpen))⟩

/-- The whole SEND from its first flush on (R156), as one equation up to the registers that each byte writes. -/
theorem runFor_faithfulSend {s : State} {d₁ e₁ d₂ e₂ : List Byte} {rest : List DevMove} (hs : s.seq = .txFlushIn)
    (hi : s.inputs = []) (hl : s.linkOpen = true) (hq : s.cfg.wMax = none)
    (hd : s.dev = faithfulSend s d₁ e₁ d₂ e₂ ++ rest) :
    ∃ i x y, runFor ((faithfulSend s d₁ e₁ d₂ e₂).length + 1) s = .next { s with
      dev := rest, rxq := Config.undefinedRxq s.draws, draws := s.draws + 1, linkOpen := false, fsm := .complete
      blk := 3#2, idx := i, txb := x, echo := y, lkres := .done
      wire := s.wire ++ (blockWire .one s ++ [.byte 0x06#8] ++ (blockWire .two s ++ [.byte 0x06#8] ++
        blockWire .three s))
      log := s.log ++ [.devAck .one d₁, .ackEcho .tx .one e₁, .devAck .two d₂, .ackEcho .tx .two e₂]
      seq := .idle } := by
  simp only [faithfulSend, List.append_assoc, List.cons_append, List.nil_append] at hd
  obtain ⟨u, hu, hflush⟩ : ∃ u, u = _ ∧ runFor 2 s = .next u := ⟨_, rfl, runFor_txFlush hs ⟨hi, hl, hq, hd⟩⟩
  have hsu : SameImage s u := ⟨by rw [hu], by rw [hu]⟩
  obtain ⟨_, _, _, hone⟩ := runFor_faithfulAckedBlock (b := .one) (s := u) (d := d₁) (e := e₁) (by rw [hu])
    (by decide) (by rw [hu]; exact ⟨hi, hl, hq, rfl⟩) (by rw [faithfulBlock_congr hsu, hu])
  obtain ⟨v, hv, hone⟩ : ∃ v, v = _ ∧ runFor _ u = .next v := ⟨_, rfl, hone⟩
  have hsv : SameImage s v := hsu.trans ⟨by rw [hv], by rw [hv]⟩
  obtain ⟨_, _, _, htwo⟩ := runFor_faithfulAckedBlock (b := .two) (s := v) (d := d₂) (e := e₂) (by rw [hv]; rfl)
    (by decide) (by rw [hv, hu]; exact ⟨hi, hl, hq, rfl⟩) (by rw [faithfulBlock_congr hsv, hv])
  obtain ⟨w, hw, htwo⟩ : ∃ w, w = _ ∧ runFor _ v = .next w := ⟨_, rfl, htwo⟩
  have hsw : SameImage s w := hsv.trans ⟨by rw [hw], by rw [hw]⟩
  obtain ⟨i, x, y, hlast⟩ := runFor_txLast (s := w) (rest := rest) (by rw [hw]; rfl)
    (by rw [hw, hv, hu]; exact ⟨hi, hl, hq, rfl⟩) (by rw [faithfulBlock_congr hsw, hw])
  refine ⟨i, x, y, ?_⟩
  rw [faithfulBlock_congr hsu] at hone
  rw [faithfulBlock_congr hsv] at htwo
  rw [faithfulBlock_congr hsw] at hlast
  have hlen : (faithfulSend s d₁ e₁ d₂ e₂).length + 1 =
      2 + (((faithfulBlock .one s).length + (acknowledges d₁ e₁).length) +
        (((faithfulBlock .two s).length + (acknowledges d₂ e₂).length) +
          ((faithfulBlock .three s).length + 1))) := by
    simp only [faithfulSend, List.length_append, List.length_cons, List.length_nil]
    omega
  rw [hlen, runFor_add hflush, runFor_add hone, runFor_add htwo, hlast, blockWire_congr hsw, hw,
    blockWire_congr hsv, hv, blockWire_congr hsu, hu]
  simp

/-- Settles O50: the acceptance, the correction, then the run; its registers by the equation of the run and the
frame of CorrectPass, its image by the laws of CorrectPass. -/
theorem faithfulSendTransmitsTheCorrectedImage : Obligations.FaithfulSendTransmitsTheCorrectedImage := by
  intro s d₁ e₁ d₂ e₂ rest hb hi hl hw hn _ _ _ _ hdev
  obtain ⟨s₁, hs₁⟩ : ∃ s₁, s₁ = (s.acknowledge.startSession .tx).goTo .txCorrect := ⟨_, rfl⟩
  have hexec : exec .cmdSend s = .next s₁ := by
    rw [exec_cmdSend hb, sendBody_accepts (s := s.acknowledge) hn hl, hs₁]
  obtain ⟨u, hu⟩ : ∃ u, u = s₁.correctPass.goTo .txFlushIn := ⟨_, rfl⟩
  have hcorrect : Machine.step s₁ = .next u := by
    rw [step_local (p := .txCorrect) (by rw [hs₁]; exact hi) (by rw [hs₁]; rfl) rfl rfl, hu]
    simp only [localStep, hs₁, State.goTo_seq]
  have himg : SameImage s s₁ := by rw [hs₁]; exact ⟨rfl, rfl⟩
  have hsu : SameImage s.correctPass u :=
    himg.correctPass.trans (by rw [hu]; exact State.goTo_sameImage _ _)
  have hrun := runFor_faithfulSend (s := u) (d₁ := d₁) (e₁ := e₁) (d₂ := d₂) (e₂ := e₂) (rest := rest)
    (by rw [hu]; rfl) (by simp [hu, hs₁, hi]) (by simp [hu, hs₁, hl]) (by simp [hu, hs₁, hw])
    (by rw [faithfulSend_congr hsu]; simp [hu, hs₁, hdev])
  rw [faithfulSend_congr hsu, blockWire_congr hsu, blockWire_congr hsu, blockWire_congr hsu] at hrun
  obtain ⟨i, x, y, hrun⟩ := hrun
  obtain ⟨t, ht, hrun⟩ : ∃ t, t = _ ∧ runFor _ u = .next t := ⟨_, rfl, hrun⟩
  have hst : SameImage s.correctPass t := hsu.trans ⟨by rw [ht], by rw [ht]⟩
  have hbusy : t.busy = false := busy_eq_false.2 (by rw [ht])
  have herr : t.err = .none := by simp [ht, hu, hs₁]
  have hfsm : t.fsm = .complete := by rw [ht]
  have hdir : t.dir = .tx := by simp [ht, hu, hs₁]
  have hrecov1 : t.recov1 = false := by simp [ht, hu, hs₁]
  have hrecov2 : t.recov2 = false := by simp [ht, hu, hs₁]
  have hverify : t.verifyPass = true := by rw [hst.verifyPass, s.correctPass_verifyPass]
  have hblocks (b : Block) : blockResult b t = some .ok :=
    blockResult_ok_iff.2 ⟨hdir, by cases b <;> simp [State.recov, hrecov1, hrecov2], wentOn_iff.2 (.inl hfsm),
      by simp [herr]⟩
  have hresult : sendResult t = some .none := by simp [sendResult, hbusy, herr]
  have hobserve : (observe 0x21#8 t).map (·.img) = some (some (imageBytes s.correctPass)) := by
    rw [observe_img hbusy, if_pos (imgObservable_iff.2 (.inl herr)), imageBytes, imageBytes, hst.imgByte]
  refine ⟨s₁, t, hexec, (runFor_step hcorrect).trans hrun, hbusy, herr, hfsm, hdir, ?_, ?_, hrecov1, hrecov2, ?_, ?_,
    ?_, hst.img, hverify, ?_, ?_, ?_, hblocks, hresult, hobserve⟩
  all_goals simp [ht, hu, hs₁]

end Sys2Proof.Safety
end

section
/-! Errors and how they end a command: O9, O38, O39. -/

namespace Sys2Proof.Machine

/-- The decoder's own error on an idle engine is a rejection (30_encoding.md R77, 60_exceptions.md R177). -/
theorem illegalCommand_idle {s : State} (hb : s.busy = false) :
    illegalCommand s = { s with err := .illegalCommand } := by
  rw [illegalCommand, dispatch_idle hb, State.raiseError_acknowledge _ (busy_eq_false.1 hb)]

/-- A byte outside the six codes reaches no instruction (30_encoding.md R63). -/
theorem presentUnit_illegal {c : Byte} {s : State} (hc : decodeCmd8 c = .error .illegalCommand) :
    presentUnit (.cmd8 c) s = .next (illegalCommand s) := by
  simp only [presentUnit, hc]

end Sys2Proof.Machine

namespace Sys2Proof.Safety

open Sys2Proof.Machine

/-- Settles O9: the byte decodes to no instruction, and the rejection meets an engine that is idle already. -/
theorem illegalCommandSetsErrOnly : Obligations.IllegalCommandSetsErrOnly := by
  intro s c rest hb hc hi
  calc Machine.step s
    _ = presentUnit (.cmd8 c) { s with inputs := rest } := step_input hi
    _ = .next (illegalCommand { s with inputs := rest }) := presentUnit_illegal (decodeCmd8_illegal_iff.2 hc)
    _ = .next { s with inputs := rest, err := .illegalCommand } :=
      congrArg Host.Outcome.next (illegalCommand_idle (s := { s with inputs := rest }) hb)

/-- Settles O38: the raise leads to the abort's LK.CLOSE, whose step ends the command. -/
theorem abortKeepsEverythingElse : Obligations.AbortKeepsEverythingElse := by
  intro s e ht hl hi
  have hstep := step_aborting (s := { s with err := e, fsm := .aborted, seq := .aborting }) rfl hi hl
  rw [State.raiseError_inTransfer e ht]
  exact ⟨_, hstep, busy_eq_false.2 rfl, Config.undefinedRxq s.draws, rfl⟩

/-- Settles O39: outside a transfer `raise` is a rejection, and its place is the idle one. -/
theorem rejectionSetsErrOnly : Obligations.RejectionSetsErrOnly := by
  intro s e ht
  have hraise := State.raiseError_rejects e ht
  exact ⟨hraise, by rw [hraise, busy_eq_false]⟩

end Sys2Proof.Safety
end

section
/-! The reset input: O37. -/

namespace Sys2Proof.Machine

/-- STATUS reads as 0x00 after the reset input (10_state.md R31). -/
@[simp] theorem State.doReset_statusReg (s : State) : s.doReset.statusReg = 0x00#8 := by
  simp only [State.statusReg, State.busy, State.doReset_underrun, State.doReset_recov2, State.doReset_recov1,
    State.doReset_vok, State.doReset_linkOpen, State.doReset_seq]
  decide

end Sys2Proof.Machine

namespace Sys2Proof.Safety

open Sys2Proof.Machine

/-- Settles O37: the event's step is `doReset`, and every field of the claim holds what `State.reset` gives it. -/
theorem resetInputRestoresResetValues : Obligations.ResetInputRestoresResetValues := by
  intro s rest hi
  have hstep : Machine.step s = .next ({ s with inputs := rest } : State).doReset := step_input hi
  exact ⟨_, hstep, rfl, rfl, rfl, rfl, State.doReset_statusReg _, rfl, rfl, rfl, rfl, rfl, rfl, rfl, rfl⟩

end Sys2Proof.Safety
end

section
/-! O54: every engine step of a running command takes the bound `stepsLeft` down. -/

namespace Sys2Proof.Machine

/-! ### What an engine step takes from the device side's queue -/

@[simp] theorem continueBlock_dev (b : Block) (s : State) : (continueBlock b s).dev = s.dev := by
  rw [continueBlock_eq, State.goTo_dev]

@[simp] theorem blockDone_dev (b : Block) (s : State) : (blockDone b s).dev = s.dev := by
  rw [blockDone_eq, State.goTo_dev]

@[simp] theorem echoTaken_dev (b : Block) (e : List Byte) (s : State) : (echoTaken b e s).dev = s.dev := by
  rcases echoTaken_cases b e s with h | ⟨-, h⟩ | ⟨-, h | h⟩ <;> simp [h]

@[simp] theorem storeSegment_dev (b : Block) (r : List Byte) (s : State) : (storeSegment b r s).dev = s.dev := by
  simp [storeSegment]

@[simp] theorem checkLength_dev (s : State) : (checkLength s).dev = s.dev := by
  unfold checkLength
  dsimp only
  split_ifs <;> simp

@[simp] theorem afterSegment_dev (b : Block) (s : State) : (afterSegment b s).dev = s.dev := by
  cases b with
  | one | two => rfl
  | three => exact checkLength_dev s

@[simp] theorem State.proceed_dev (s : State) : s.proceed.dev = s.dev := by
  cases hs : s.seq <;> simp only [State.proceed, hs]
  case rxRead b => simp
  case txEcho b n => simp
  case txWrite b i => split_ifs <;> rfl
  all_goals rfl

@[simp] theorem State.resume_dev (s : State) : s.resume.dev = s.dev := by
  rcases s.resume_cases with ⟨-, e⟩ | ⟨-, e⟩ | ⟨-, -, e⟩ <;> rw [e] <;> simp

/-- At most one of the device side's moves is made from `s` to `t`. -/
def movesAtMostOnce (s t : State) : Prop := t.dev = s.dev ∨ t.dev = s.dev.tail

theorem State.linkStep_dev {mayStall : Bool} {effect : State → State} (s : State)
    (h : ∀ u, (effect u).dev = u.dev) : (s.linkStep mayStall effect).dev = s.dev.tail := by
  rcases s.linkStep_cases mayStall effect with ⟨-, e⟩ | ⟨-, e⟩ | ⟨-, e⟩ <;> rw [e] <;> simp [h]

/-- A primitive is one link step: the device side moves once, and not at all at LK.CLOSE (40_link.md R82, R90). -/
theorem exec_link_movesAtMostOnce {i : Instr} {s t : State} (hp : i.port ≠ .cmd) (hq : i ≠ .quirk)
    (h : exec i s = .next t) : movesAtMostOnce s t := by
  cases i with
  | cmdOpen | cmdClose | cmdVerify | cmdCorrect | cmdRecv | cmdSend => exact absurd rfl hp
  | quirk => exact absurd rfl hq
  | lkOpen => cases h; exact .inr s.openPort_dev
  | lkClose => cases h; exact .inl s.closePort_dev
  | lkRead | lkWrite | lkBreak | lkWaiting | lkFlushin | lkFlushout | ack =>
    rw [(whenOpen_next h).2]
    exact .inr (s.linkStep_dev fun _ => rfl)

theorem verifyStep_dev (s : State) : (verifyStep s).dev = s.dev := by
  obtain ⟨acc, e | e⟩ := verifyStep_cases s <;> rw [e]
  · rfl
  · exact State.raiseError_dev _ _

/-- A Delay lets the device side move once, a checksum pass not at all (40_link.md R94, R95). -/
theorem localStep_movesAtMostOnce (s : State) : movesAtMostOnce s (localStep s) := by
  cases hs : s.seq <;> simp only [localStep, hs]
  case verifyPass => exact .inl (verifyStep_dev s)
  case correctPass => exact .inl ((State.finish_dev _).trans s.correctPass_dev)
  case rxCorrect | txCorrect => exact .inl ((State.goTo_dev _ _).trans s.correctPass_dev)
  case rxSettle | txSettle => exact .inr ((State.goTo_dev _ _).trans s.delay_dev)
  all_goals exact .inl rfl

theorem engineStep_movesAtMostOnce {s t : State} (h : engineStep s = .next t) : movesAtMostOnce s t := by
  rcases engineStep_next h with ⟨-, -, rfl⟩ | ⟨-, u, i, v, -, -, hp, hq, hv, -, rfl⟩
  · exact localStep_movesAtMostOnce s
  · simpa only [movesAtMostOnce, State.resume_dev, State.enter_dev] using exec_link_movesAtMostOnce hp hq hv

/-- An engine step leaves the queue of outside events (00_scope.md R3). -/
theorem engineStep_inputs {s t : State} (h : engineStep s = .next t) : t.inputs = s.inputs := by
  have hq : engineStep (s.withInputs s.inputs) = withQueue s.inputs (engineStep s) :=
    engineStep_withInputs s.inputs s
  rw [h] at hq
  have ht : t = t.withInputs s.inputs := Host.Outcome.next.inj (h.symm.trans hq)
  calc t.inputs
    _ = (t.withInputs s.inputs).inputs := congrArg State.inputs ht
    _ = s.inputs := rfl

/-! ### What a primitive that the device side does not hold answers -/

/-- Only a held primitive has not returned (93_implementation_defined.md U6). -/
theorem exec_link_stalled {i : Instr} {s t : State} (hp : i.port ≠ .cmd) (hq : i ≠ .quirk)
    (h : exec i s = .next t) (hs : t.lkres = .stalled) : s.nextMove.answer = .stall := by
  have held {m : Bool} {effect : State → State} (he : ∀ u, (effect u).lkres ≠ .stalled)
      (ht : t = s.linkStep m effect) : s.nextMove.answer = .stall := by
    rcases s.linkStep_cases m effect with ⟨-, e⟩ | ⟨-, e⟩ | ⟨hm, -⟩
    · rw [ht, e] at hs
      exact absurd hs (he _)
    · rw [ht, e] at hs
      cases hs
    · exact (State.moveAnswer_stall.1 hm).1
  cases i with
  | cmdOpen | cmdClose | cmdVerify | cmdCorrect | cmdRecv | cmdSend => exact absurd rfl hp
  | quirk => exact absurd rfl hq
  | lkOpen =>
    cases h
    cases hm : s.nextMove.answer with
    | ok => rw [State.openPort_available hm] at hs; cases hs
    | fail => rw [State.openPort_fails hm] at hs; cases hs
    | stall => rfl
  | lkClose => cases h; simp at hs
  | lkRead | lkWrite | lkBreak | lkWaiting | lkFlushin | lkFlushout | ack =>
    exact held (fun _ => by simp) (whenOpen_next h).2

/-- The unit of a place depends on the registers alone. -/
theorem request_of_same {s t : State} (same : SameRegisters s t) : t.request = s.request := by
  simp only [State.request, same.seq, same.txb]

/-- A place whose primitive fails is none of the LK.CLOSEs that end a transfer: those cannot fail (40_link.md
R82). -/
theorem request_failed {s t : State} {u : CodeUnit} {i : Instr} (hu : s.request = some u)
    (hd : decode u = .ok i) (h : exec i s = .next t) (hf : t.lkres = .failed) :
    s.seq ≠ .completing ∧ s.seq ≠ .aborting := by
  constructor <;> intro hs <;> simp only [State.request, hs, Option.some.injEq] at hu <;> subst hu <;>
  · cases hd
    cases h
    simp at hf

end Sys2Proof.Machine

namespace Sys2Proof.Safety

open Sys2Proof.Machine

/-! ### The bound -/

theorem sendStepsFrom_pos (b : Block) (i : Nat) : 0 < sendStepsFrom b i := by
  cases b <;> simp only [sendStepsFrom] <;> omega

/-- Each byte of a block is worth its steps: write, break in blocks 1 and 2, LK.WAITING, echo read (43_send.md
R145). -/
theorem sendStepsFrom_of_lt {b : Block} {i : Nat} (hi : i < segLen b) :
    sendStepsFrom b i = (if isFinal b then 3 else 4) + sendStepsFrom b (i + 1) := by
  cases b <;> simp only [sendStepsFrom, isFinal, segLen, Bool.false_eq_true, if_true, if_false] at hi ⊢ <;> omega

/-- The longest rest of a SEND is the one from the first byte of block 1. -/
theorem sendStepsFrom_le (b : Block) (i : Nat) : sendStepsFrom b i ≤ 48664 := by
  cases b <;> simp only [sendStepsFrom, segLen] <;> omega

/-- After an ACK exchange at most blocks 2 and 3 follow (43_send.md R156). -/
theorem ackStepsFrom_le (b : Block) (left : Nat) : ackStepsFrom b left ≤ left + 48618 := by
  cases b <;> simp [ackStepsFrom, sendStepsFrom, nextBlock, segLen]

/-- The bound is largest at the first place of SEND (70_reset_and_hazards.md R216). -/
theorem stepsLeft_le (s : State) : stepsLeft s ≤ 48667 := by
  have hsend := sendStepsFrom_le
  have hack := ackStepsFrom_le
  cases hs : s.seq
  case rxRead b | rxSettle b | rxAck b | rxEcho b => cases b <;> simp [stepsLeft, hs]
  case txCorrect | txFlushIn | txFlushOut =>
    have := hsend .one 0
    simp only [stepsLeft, hs]
    omega
  case txWrite b i =>
    have := hsend b i
    simp only [stepsLeft, hs]
    omega
  case txBreak b | txWaiting b | txEcho b n =>
    have := hsend b (s.idx.toNat + 1)
    simp only [stepsLeft, hs]
    omega
  case txSettle b | txAckWaiting b | txAckRead b n | txAck b | txAckEchoWaiting b | txAckEchoRead b n =>
    simp only [stepsLeft, hs]
    exact (hack b _).trans (by decide)
  all_goals simp [stepsLeft, hs]

/-- The bound looks at nothing but the place and IDX. -/
theorem stepsLeft_congr {s t : State} (hs : t.seq = s.seq) (hi : t.idx = s.idx) : stepsLeft t = stepsLeft s := by
  simp only [stepsLeft, hs, hi]

/-- The fetch of a byte writes IDX where the bound does not look at it (log 1). -/
theorem stepsLeft_enter (s : State) : stepsLeft s.enter = stepsLeft s := by
  by_cases hw : ∃ b i, s.seq = .txWrite b i
  · obtain ⟨b, i, hs⟩ := hw
    simp only [stepsLeft, State.enter_seq, hs]
  · have hidx : s.enter.idx = s.idx := by
      cases hs : s.seq <;> simp only [State.enter, hs]
      case txWrite b i => exact absurd ⟨b, i, hs⟩ hw
    exact stepsLeft_congr s.enter_seq hidx

/-- A running command has at least one step left. -/
theorem stepsLeft_pos {s : State} (h : s.busy = true) : 0 < stepsLeft s := by
  rw [busy_eq_true] at h
  cases hs : s.seq
  case idle => exact absurd hs h
  case rxRead b | rxSettle b | rxAck b | rxEcho b => cases b <;> simp [stepsLeft, hs]
  case txWrite b i => simpa only [stepsLeft, hs] using sendStepsFrom_pos b i
  all_goals simp [stepsLeft, hs, ackStepsFrom]

/-- An error leaves no more than the abort's LK.CLOSE (60_exceptions.md R181, R182). -/
theorem stepsLeft_raiseError (e : ErrCode) (s : State) :
    stepsLeft (s.raiseError e) = if s.seq.inTransfer then 1 else 0 := by
  cases ht : s.seq.inTransfer with
  | true => rw [State.raiseError_inTransfer e ht]; rfl
  | false => rw [State.raiseError_rejects e ht]; rfl

/-- The byte to write is one of the block's, and IDX holds its index once it has been fetched (43_send.md R145). -/
def fetched (s : State) : Prop := ∀ b i, s.seq = .txWrite b i → s.idx.toNat = i ∧ i < segLen b

theorem Inv.fetched_of_same {s v : State} (h : Inv s) (same : SameRegisters s.enter v) : fetched v := by
  intro b i hs
  have hse : s.enter.seq = .txWrite b i := same.seq.symm.trans hs
  have he := enteredOk_txWrite (s.enter_seq.symm.trans hse) h.place
  simp only [enteredOk, hse] at he
  obtain ⟨-, hidx, hi⟩ := he
  exact ⟨by rw [same.idx, hidx], hi⟩

/-- Every place of a transfer but those of LK.CLOSE has more than one step left. -/
theorem one_lt_stepsLeft {s : State} (ht : s.seq.inTransfer = true) (hf : fetched s)
    (hc : s.seq ≠ .completing) (ha : s.seq ≠ .aborting) : 1 < stepsLeft s := by
  cases hs : s.seq <;> simp only [hs, SeqPos.inTransfer, reduceCtorEq] at ht
  case completing => exact absurd hs hc
  case aborting => exact absurd hs ha
  case rxRead b | rxSettle b | rxAck b | rxEcho b => cases b <;> simp [stepsLeft, hs]
  case txWrite b i =>
    have hpos := sendStepsFrom_pos b (i + 1)
    obtain ⟨-, hi⟩ := hf b i hs
    simp only [stepsLeft, hs, sendStepsFrom_of_lt hi]
    split_ifs <;> omega
  case txBreak b | txWaiting b | txEcho b n =>
    have hpos := sendStepsFrom_pos b (s.idx.toNat + 1)
    simp only [stepsLeft, hs]
    omega
  case txCorrect | txFlushIn | txFlushOut =>
    have hpos := sendStepsFrom_pos .one 0
    simp only [stepsLeft, hs]
    omega
  case txSettle b | txAckWaiting b | txAckRead b n | txAck b | txAckEchoWaiting b | txAckEchoRead b n =>
    have hpos := sendStepsFrom_pos (nextBlock b) 0
    simp only [stepsLeft, hs, ackStepsFrom]
    omega
  all_goals simp [stepsLeft, hs]

/-- An error that is raised where a primitive has failed takes the bound down (40_link.md R91, R92). -/
theorem stepsLeft_raiseError_lt {s : State} (e : ErrCode) (hb : s.busy = true) (hf : fetched s)
    (hc : s.seq ≠ .completing) (ha : s.seq ≠ .aborting) : stepsLeft (s.raiseError e) < stepsLeft s := by
  rw [stepsLeft_raiseError]
  split_ifs with ht
  · exact one_lt_stepsLeft ht hf hc ha
  · exact stepsLeft_pos hb

/-! ### The lines after a primitive -/

/-- What follows the byte loop of block b is counted from every byte of it (43_send.md R153 to R155). -/
theorem stepsLeft_blockDone_le (b : Block) (i : Nat) (s : State) :
    stepsLeft (blockDone b s) ≤ sendStepsFrom b i := by
  cases b <;> simp only [blockDone, stepsLeft, State.goTo_seq, ackStepsFrom, nextBlock, sendStepsFrom] <;> omega

theorem stepsLeft_continueBlock_le (b : Block) (s : State) :
    stepsLeft (continueBlock b s) ≤ sendStepsFrom b (s.idx.toNat + 1) := by
  unfold continueBlock
  split_ifs
  · exact le_rfl
  · exact stepsLeft_blockDone_le b _ s

/-- Whatever the echo of byte IDX is, at most the rest of the SEND follows (43_send.md R149 to R152). -/
theorem stepsLeft_echoTaken_le (b : Block) (e : List Byte) (s : State) :
    stepsLeft (echoTaken b e s) ≤ sendStepsFrom b (s.idx.toNat + 1) := by
  rcases echoTaken_cases b e s with h | ⟨-, h⟩ | ⟨-, h | h⟩ <;> rw [h]
  · exact stepsLeft_continueBlock_le b _
  · rw [stepsLeft_raiseError]
    have hpos := sendStepsFrom_pos b (s.idx.toNat + 1)
    split_ifs <;> omega
  · exact stepsLeft_blockDone_le b _ _
  · exact stepsLeft_continueBlock_le b _

/-- The echo read of byte IDX, with its LK.WAITING, and the rest (43_send.md R148). -/
theorem stepsLeft_echoPlace_le (b : Block) (s : State) :
    stepsLeft (s.goTo (echoPlace b s)) ≤ 2 + sendStepsFrom b (s.idx.toNat + 1) := by
  unfold echoPlace
  split_ifs <;> simp [stepsLeft]

/-- After the length check come CorrectPass and the LK.CLOSE, or the abort's LK.CLOSE (42_receive.md R125, R126). -/
theorem stepsLeft_checkLength_le (s : State) : stepsLeft (checkLength s) ≤ 2 := by
  unfold checkLength
  dsimp only
  split_ifs
  · exact le_rfl
  · rw [stepsLeft_raiseError]
    split_ifs <;> omega

theorem stepsLeft_afterSegment_lt {b : Block} {s : State} (hs : s.seq = .rxRead b) :
    stepsLeft (afterSegment b s) < stepsLeft s := by
  cases b with
  | one | two => simp [afterSegment, stepsLeft, hs]
  | three =>
    have hleft : stepsLeft s = 3 := by simp only [stepsLeft, hs]
    have hcheck := stepsLeft_checkLength_le s
    simp only [afterSegment]
    omega

/-- The lines after a primitive that has returned take the bound down, place by place. -/
theorem stepsLeft_proceed_lt {s : State} {u : CodeUnit} (hu : s.request = some u) (hf : fetched s) :
    stepsLeft s.proceed < stepsLeft s := by
  cases hs : s.seq <;> simp only [State.request, hs, reduceCtorEq] at hu <;> simp only [State.proceed, hs]
  case rxRead b =>
    calc stepsLeft (afterSegment b (storeSegment b s.lkres.bytesOf s))
      _ < stepsLeft (storeSegment b s.lkres.bytesOf s) := stepsLeft_afterSegment_lt (by rw [storeSegment_seq, hs])
      _ = stepsLeft s := stepsLeft_congr (by simp) (by simp [storeSegment])
  case rxAck b | rxEcho b => cases b <;> simp [stepsLeft, hs, nextBlock]
  case txWrite b i =>
    obtain ⟨rfl, hi⟩ := hf b i hs
    have hecho := stepsLeft_echoPlace_le b s
    have hleft : stepsLeft s = (if isFinal b then 3 else 4) + sendStepsFrom b (s.idx.toNat + 1) := by
      rw [← sendStepsFrom_of_lt hi]
      simp only [stepsLeft, hs]
    split_ifs at hleft ⊢
    · omega
    · rw [hleft]
      simp [stepsLeft]
  case txBreak b =>
    have hecho := stepsLeft_echoPlace_le b s
    have hleft : stepsLeft s = 3 + sendStepsFrom b (s.idx.toNat + 1) := by simp only [stepsLeft, hs]
    omega
  case txEcho b n =>
    have hecho := stepsLeft_echoTaken_le b s.lkres.bytesOf s
    have hleft : stepsLeft s = 1 + sendStepsFrom b (s.idx.toNat + 1) := by simp only [stepsLeft, hs]
    omega
  all_goals simp [stepsLeft, hs, ackStepsFrom]

/-! ### Engine steps -/

/-- A checksum pass or a Delay takes the bound down. -/
theorem stepsLeft_localStep_lt {s : State} (hb : s.busy = true) (hr : s.enter.request = none) :
    stepsLeft (localStep s) < stepsLeft s := by
  rw [busy_eq_true] at hb
  cases hs : s.seq <;> simp only [State.request, State.enter_seq, hs, reduceCtorEq] at hr <;>
    simp only [localStep, hs]
  case idle => exact absurd hs hb
  case verifyPass =>
    have hidle : (verifyStep s).seq = .idle := by rw [verifyStep_eq hs]
    simp [stepsLeft, hidle, hs]
  case rxSettle b => cases b <;> simp [stepsLeft, hs]
  all_goals simp [stepsLeft, hs, correctStep, ackStepsFrom]

/-- A step of a running command whose primitive is not held takes the bound down (70_reset_and_hazards.md R216). -/
theorem stepsLeft_engineStep_lt {s t : State} (h : Inv s) (hb : s.busy = true)
    (hm : s.nextMove.answer ≠ .stall) (he : engineStep s = .next t) : stepsLeft t < stepsLeft s := by
  rcases engineStep_next he with ⟨-, hr, rfl⟩ | ⟨-, u, i, v, hu, hd, hp, hq, hv, same, rfl⟩
  · exact stepsLeft_localStep_lt hb hr
  have hf : fetched v := h.fetched_of_same same
  have hseq : v.seq = s.seq := same.seq.trans s.enter_seq
  rw [← stepsLeft_enter s, ← stepsLeft_congr same.seq same.idx]
  rcases v.resume_cases with ⟨hl, e⟩ | ⟨hl, -⟩ | ⟨-, -, e⟩
  · rw [e]
    obtain ⟨hc, ha⟩ := request_failed hu hd hv hl
    rw [← same.seq] at hc ha
    exact stepsLeft_raiseError_lt _ (by rwa [State.busy, hseq]) hf hc ha
  · exact absurd (s.enter_nextMove ▸ exec_link_stalled hp hq hv hl) hm
  · rw [e]
    exact stepsLeft_proceed_lt ((request_of_same same).trans hu) hf

/-! ### Runs -/

/-- The device side has enough moves for the rest of the command, and holds no primitive. -/
structure Supplied (s : State) : Prop where
  inv : Inv s
  inputs : s.inputs = []
  neverStalls : neverStalls s.dev
  enough : stepsLeft s ≤ s.dev.length

theorem neverStalls.nextMove {s : State} (h : neverStalls s.dev) (hd : s.dev ≠ []) :
    s.nextMove.answer ≠ .stall := by
  obtain ⟨m, rest, hm⟩ := List.exists_cons_of_ne_nil hd
  rw [State.nextMove_queued hm]
  exact h m (by rw [hm]; exact List.mem_cons_self)

/-- The step of a running command: one lower, and the moves still suffice. -/
theorem Supplied.step {s : State} (h : Supplied s) (hb : s.busy = true) :
    ∃ t, Machine.step s = .next t ∧ Supplied t ∧ stepsLeft t < stepsLeft s := by
  obtain ⟨t, ht⟩ := h.inv.engineStep_answers
  have hlen : 0 < s.dev.length := (stepsLeft_pos hb).trans_le h.enough
  have hlt := stepsLeft_engineStep_lt h.inv hb (h.neverStalls.nextMove (List.length_pos_iff.1 hlen)) ht
  have henough := h.enough
  refine ⟨t, (step_engine h.inputs).trans ht, ⟨engineStep_inv h.inv ht, ?_, ?_, ?_⟩, hlt⟩
  · rw [engineStep_inputs ht, h.inputs]
  · rcases engineStep_movesAtMostOnce ht with hd | hd <;> rw [hd]
    · exact h.neverStalls
    · exact fun m hm => h.neverStalls m (List.mem_of_mem_tail hm)
  · rcases engineStep_movesAtMostOnce ht with hd | hd <;> rw [hd]
    · omega
    · rw [List.length_tail]
      omega

/-- A supplied command runs to its end within the bound. -/
theorem Supplied.runFor_ends {s : State} (h : Supplied s) :
    ∃ k t, k ≤ stepsLeft s ∧ runFor k s = .next t ∧ t.busy = false := by
  induction hn : stepsLeft s using Nat.strong_induction_on generalizing s with
  | _ n ih =>
    subst hn
    cases hb : s.busy with
    | false => exact ⟨0, s, Nat.zero_le _, rfl, hb⟩
    | true =>
      obtain ⟨u, hu, hsupplied, hlt⟩ := h.step hb
      obtain ⟨k, t, hk, hrun, ht⟩ := ih _ hlt hsupplied rfl
      exact ⟨k + 1, t, hk.trans_lt hlt, (runFor_step hu).trans hrun, ht⟩

/-- Settles O54: the bound falls with every step of a running command, by strong induction on it. -/
theorem everyCommandEnds : Obligations.EveryCommandEnds :=
  ⟨stepsLeft_le, fun _ h hi hn hl => Supplied.runFor_ends ⟨h, hi, hn, hl⟩⟩

end Sys2Proof.Safety
end
